-- ==== Sys2Proof/Word.lean ====
section
/-! DEFINITION. The word types of the telemetry decode block (spec rule R11, R14): bytes from the wire, 16-bit
fields, 32-bit counters and CAN identifiers, and the 115-bit request word of rule R91. -/

namespace Sys2Proof

/-- `UInt8` of the spec: a byte from the wire, a CAN data byte, a length (R11, R14). -/
abbrev Byte := BitVec 8

/-- `UInt16` of the spec: a 16-bit field, the running CRC (R11). -/
abbrev Half := BitVec 16

/-- `UInt32` of the spec: the two counters, a CAN identifier (R11). -/
abbrev Word := BitVec 32

/-- The 115-bit request word `q` (R91). -/
abbrev Request := BitVec 115

end Sys2Proof
end

