-- ==== Sys2Proof/Syntax.lean ====
section
/-! DEFINITION. The five transactions of the block as syntax (spec rules R88, R90), one constructor a row of
spec/opcode_table.json. -/

namespace Sys2Proof

/-- The eight data bytes of a CAN frame, all present whatever `dlc` says (R88). -/
structure CanData where
  d0 : Byte
  d1 : Byte
  d2 : Byte
  d3 : Byte
  d4 : Byte
  d5 : Byte
  d6 : Byte
  d7 : Byte
  deriving DecidableEq, Repr

/-- A transaction with its operands (R90). -/
inductive Instr where
  /-- INIT (R226). -/
  | init
  /-- FEED_BYTE `b` (R120). -/
  | feedByte (b : Byte)
  /-- FEED_CAN `id`, `data`, `dlc` (R200). -/
  | feedCan (id : Word) (data : CanData) (dlc : Byte)
  /-- HAS_NEW_DATA (R223). -/
  | hasNewData
  /-- GET_SNAPSHOT (R221). -/
  | getSnapshot
  deriving DecidableEq, Repr

end Sys2Proof
end

