-- ==== Sys2Proof/Decode.lean ====
section
/-! DEFINITION. The request word (spec rules R91 to R93): the decoder, total on every 115-bit word and rejecting the
reserved transaction codes by name, and the encoder, from the same field table. -/

namespace Sys2Proof

/-- Why a request word spells no transaction. -/
inductive DecodeError where
  /-- A reserved transaction code, 5 to 7 (R93). Raised by `decode`; safe, the machine refuses the request. -/
  | reservedOp (op : BitVec 3)
  deriving DecidableEq, Repr

/-! ## Fields (R91) -/

/-- `op = q[2:0]` (R91). -/
def opField (q : Request) : BitVec 3 := q.extractLsb' 0 3

/-- `b = q[10:3]` (R91). -/
def byteField (q : Request) : Byte := q.extractLsb' 3 8

/-- `can_id = q[42:11]` (R91). -/
def canIdField (q : Request) : Word := q.extractLsb' 11 32

/-- `dlc = q[50:43]` (R91). -/
def dlcField (q : Request) : Byte := q.extractLsb' 43 8

/-- `data[k] = q[58+8k : 51+8k]` (R91). -/
def canDataByte (q : Request) (k : Nat) : Byte := q.extractLsb' (51 + 8 * k) 8

/-- The eight data bytes (R91). -/
def canDataField (q : Request) : CanData where
  d0 := canDataByte q 0
  d1 := canDataByte q 1
  d2 := canDataByte q 2
  d3 := canDataByte q 3
  d4 := canDataByte q 4
  d5 := canDataByte q 5
  d6 := canDataByte q 6
  d7 := canDataByte q 7

/-- The transaction a request word spells (R92), or the reserved code it holds (R93). Fields the transaction does not
use are ignored (R91). -/
def decode (q : Request) : Except DecodeError Instr :=
  match (opField q).toNat with
  | 0 => .ok .init
  | 1 => .ok (.feedByte (byteField q))
  | 2 => .ok (.feedCan (canIdField q) (canDataField q) (dlcField q))
  | 3 => .ok .hasNewData
  | 4 => .ok .getSnapshot
  | _ => .error (.reservedOp (opField q))

/-! ## Encoder (R91, R92) -/

/-- `q[114:51]`, `data[7]` uppermost (R91). -/
def packData (d : CanData) : BitVec 64 := d.d7 ++ d.d6 ++ d.d5 ++ d.d4 ++ d.d3 ++ d.d2 ++ d.d1 ++ d.d0

/-- The request word with these fields (R91). -/
def packRequest (data : BitVec 64) (dlc : Byte) (id : Word) (b : Byte) (op : BitVec 3) : Request :=
  data ++ dlc ++ id ++ b ++ op

/-- The transaction code of an instruction (R92). -/
def opcode : Instr → BitVec 3
  | .init => 0
  | .feedByte _ => 1
  | .feedCan _ _ _ => 2
  | .hasNewData => 3
  | .getSnapshot => 4

/-- The request word of an instruction, the fields it does not use at zero (R91, R92). -/
def encode : Instr → Request
  | .init => packRequest 0 0 0 0 0
  | .feedByte b => packRequest 0 0 0 b 1
  | .feedCan id data dlc => packRequest (packData data) dlc id 0 2
  | .hasNewData => packRequest 0 0 0 0 3
  | .getSnapshot => packRequest 0 0 0 0 4

/-- The 115-bit request that a table word of `nbits` bits stands for: the bits above `nbits` are zero, and a carrier's
padding above bit 114 is no part of the request (log entry 17). -/
def tableRequest (nbits w : Nat) : Request := BitVec.ofNat 115 (w % 2 ^ nbits)

/-- The instruction the decoder reads from a table word, none where it refuses. -/
def decodeTableWord (nbits w : Nat) : Option Instr :=
  match decode (tableRequest nbits w) with
  | .ok i => some i
  | .error _ => none

end Sys2Proof
end

