-- ==== Sys2Proof/Config.lean ====
section
/-! DEFINITION. The block's configuration record (spec rules R7 to R10 and R100 to R105): the constants the source
fixes, the parameters it leaves open, the formats of the field tables, the table entries the source fixes partly, and
the two functions the source leaves wholly open, as constants without a body. -/

namespace Sys2Proof

/-! ## Constants the source fixes (R7) -/

/-- `HDR[0..3]` (R7). -/
def hdr0 : Byte := 0x55
/-- `HDR[1]` (R7). -/
def hdr1 : Byte := 0x00
/-- `HDR[2]` (R7). -/
def hdr2 : Byte := 0xAA
/-- `HDR[3]` (R7). -/
def hdr3 : Byte := 0x00
/-- `LEN_MIN` (R7, R83). -/
def lenMin : Nat := 4
/-- `LEN_MAX` (R7, R83). -/
def lenMax : Nat := 48
/-- `NSLOTS` (R7, R102): legal selector values are `0 .. 9`. -/
def nSlots : Nat := 10
/-- `SLOT_LEN` (R7): bytes of one slow-record payload. -/
def slotLen : Nat := 11
/-- `CRC_INIT` (R7, R130). -/
def crcInit : Half := 0xFFFF
/-- `RPM_K` (R7, R162). -/
def rpmK : Nat := 10000000

/-! ## Parameters (R8) -/

/-- `TRANSPORT` (R8, R10). A source configuration is `uart` or `can`. `both` is the case "beyond the source" of
rule R72, in which both ports are present (log entry 5). -/
inductive Transport where
  | uart
  | can
  | both
  deriving DecidableEq, Repr

/-- Is the byte port, and so FEED_BYTE, part of the block (R94)? -/
def Transport.hasUart : Transport → Bool
  | .uart => true
  | .can => false
  | .both => true

/-- Is the CAN port, and so FEED_CAN, part of the block (R94)? -/
def Transport.hasCan : Transport → Bool
  | .uart => false
  | .can => true
  | .both => true

/-- `SHORT_FRAME_POLICY` (R8, R164). -/
inductive ShortFramePolicy where
  | stale
  | skip
  deriving DecidableEq, Repr

/-- Which `CRC_UPDATE` the block has (R8, R131). `peer` is the peer firmware's function, which the source does not
give (`Config.crcPeer`, no body). `candA` and `candB` are the two non-normative candidates of rule R132, here so that
the spec's vectors can be run; no rule makes either one the hardware's. -/
inductive CrcUpdate where
  | peer
  | candA
  | candB
  deriving DecidableEq, Repr

/-- Which `FLOAT_RENDER` the block has (R8, R169). `nearestEven` is the spec's default. `reference` is the expression
of the reference software, which the source does not give (spec item I2; `Config.renderReference`, no body). -/
inductive FloatRender where
  | nearestEven
  | reference
  deriving DecidableEq, Repr

/-- The kind of a channel (R8, R29). -/
inductive ChanKind where
  | float
  | int
  | flags
  deriving DecidableEq, Repr

/-- A channel of `CHANNELS`: its id and its kind (R8). The source gives no id form; a number stands for a name. -/
structure Channel where
  id : Nat
  kind : ChanKind
  deriving DecidableEq, Repr

/-- A transform (R101). -/
inductive Transform where
  | lin (num : Int) (den : Nat) (add : Rat)
  | recip (k : Nat)
  | int
  deriving DecidableEq, Repr

/-- A field entry of `FAST_TABLE` or `SLOW_TABLE` (R100). -/
structure FieldEntry where
  ch : Nat
  off : Nat
  width : Nat
  signed : Bool
  xf : Transform
  deriving DecidableEq, Repr

/-- A CAN field entry; its width is always two bytes (R104). -/
structure CanField where
  ch : Nat
  off : Nat
  signed : Bool
  xf : Transform
  deriving DecidableEq, Repr

/-- An identifier entry of `CAN_TABLE` (R104). -/
structure CanEntry where
  id : Word
  fields : List CanField
  deriving DecidableEq, Repr

/-- The configuration record (R8). It is fixed for the life of a model instance (R37). -/
structure Config where
  /-- `PROTO_VERSION` (R123). -/
  protoVersion : Byte
  /-- `CRC_UPDATE` (R131). -/
  crcUpdate : CrcUpdate
  /-- `BUF_CAP` (R28, R61). -/
  bufCap : Nat
  /-- `VERSION_REEVAL` (R123). -/
  versionReeval : Bool
  /-- `SHORT_FRAME_POLICY` (R164). -/
  shortFrame : ShortFramePolicy
  /-- `CAN_DLC_CHECK` (R202). -/
  canDlcCheck : Bool
  /-- `TRANSPORT` (R10, R94). -/
  transport : Transport
  /-- `FLOAT_RENDER` (R169). -/
  floatRender : FloatRender
  /-- `CHANNELS` (R29). -/
  channels : List Channel
  /-- `FAST_TABLE` (R103). -/
  fastTable : List FieldEntry
  /-- `SEL_OFF` (R87). -/
  selOff : Nat
  /-- `SLOW_TABLE`, one list a slot (R102). -/
  slowTable : List (List FieldEntry)
  /-- `CAN_TABLE` (R104). -/
  canTable : List CanEntry
  deriving DecidableEq, Repr

/-- The peer firmware's CRC update (R131, spec decision D5). The source does not give it: nothing can evaluate it.
Its law, `Machine.DetectsSingleBitErrors`, is a hypothesis wherever it is used, never assumed (R131). -/
opaque Config.crcPeer : Half → Byte → Half

/-- The reference software's float expression (spec item I2). The source does not give it: nothing can evaluate it. -/
opaque Config.renderReference : Rat → BitVec 32

/-! ## The table entries the source fixes partly (R105) -/

/-- Ids of the four channels the source names (R105). The numbers are the model's. -/
def chRpm : Nat := 0
/-- `tps` (R105). -/
def chTps : Nat := 1
/-- `oil_temp` (R105). -/
def chOilTemp : Nat := 2
/-- `oil_pressure` (R105). -/
def chOilPressure : Nat := 3

/-- The `rpm` entry at `OFF_PERIOD` (R105, R162). -/
def rpmEntry (offPeriod : Nat) : FieldEntry :=
  { ch := chRpm, off := offPeriod, width := 2, signed := false, xf := .recip rpmK }

/-- The `tps` entry at `OFF_TPS` (R105, R163). -/
def tpsEntry (offTps : Nat) : FieldEntry :=
  { ch := chTps, off := offTps, width := 1, signed := false, xf := .lin 100 255 0 }

/-- The `oil_temp` field of identifier `0x304` at `CAN304_OFF_OT` (R105, R207). -/
def oilTempField (off304OT : Nat) (signed : Bool) : CanField :=
  { ch := chOilTemp, off := off304OT, signed := signed, xf := .lin 1 10 0 }

/-- The `oil_pressure` field of identifier `0x304` at `CAN304_OFF_OP` (R105, R207). -/
def oilPressureField (off304OP : Nat) (signed : Bool) : CanField :=
  { ch := chOilPressure, off := off304OP, signed := signed, xf := .lin 1 100 0 }

/-- The identifier the source names (R105, R207). -/
def canId304 : Word := 0x304

/-- Does the configuration hold the entries the source fixes partly (R105), each at some offset and, on the CAN
side, with some signedness? Rule R9 does not ask for it, so `Config.wellFormed` does not either. -/
def Config.holdsSourceEntries (c : Config) : Bool :=
  c.fastTable.any (fun e => e == rpmEntry e.off) && c.fastTable.any (fun e => e == tpsEntry e.off) &&
  c.canTable.any fun E => E.id == canId304 && E.fields.any (fun f => f == oilTempField f.off f.signed) &&
    E.fields.any (fun f => f == oilPressureField f.off f.signed)

/-! ## The spec's example configuration EX (95_test_vectors.md, section 2) -/

/-- A slow-slot channel of EX with the identity scale: `ex_sk`, k = 2 .. 9. -/
def exSlotEntry (ch : Nat) : FieldEntry :=
  { ch := ch, off := 0, width := 1, signed := false, xf := .lin 1 1 0 }

/-- The channels of EX: `rpm`, `tps`, `oil_temp`, `oil_pressure`, `ex_f2`, `ex_s0a`, `ex_s0b`, `ex_s1a`, `ex_s2` to
`ex_s9`, `ex_c0` to `ex_c3`. -/
def exChannels : List Channel :=
  [⟨0, .float⟩, ⟨1, .float⟩, ⟨2, .float⟩, ⟨3, .float⟩, ⟨4, .float⟩, ⟨5, .float⟩, ⟨6, .float⟩, ⟨7, .flags⟩] ++
  [⟨8, .float⟩, ⟨9, .float⟩, ⟨10, .float⟩, ⟨11, .float⟩, ⟨12, .float⟩, ⟨13, .float⟩, ⟨14, .float⟩, ⟨15, .float⟩] ++
  [⟨16, .float⟩, ⟨17, .float⟩, ⟨18, .float⟩, ⟨19, .flags⟩]

/-- The slow table of EX. -/
def exSlowTable : List (List FieldEntry) :=
  [ [ { ch := 5, off := 0, width := 2, signed := false, xf := .lin 1 100 0 },
      { ch := 6, off := 2, width := 1, signed := true, xf := .lin 1 1 0 } ],
    [ { ch := 7, off := 0, width := 1, signed := false, xf := .int } ],
    [exSlotEntry 8], [exSlotEntry 9], [exSlotEntry 10], [exSlotEntry 11],
    [exSlotEntry 12], [exSlotEntry 13], [exSlotEntry 14], [exSlotEntry 15] ]

/-- The CAN table of EX. -/
def exCanTable : List CanEntry :=
  [ { id := canId304, fields := [oilTempField 0 true, oilPressureField 2 false] },
    { id := 0x300,
      fields :=
        [ { ch := 16, off := 0, signed := false, xf := .lin 1 1 0 },
          { ch := 17, off := 2, signed := false, xf := .lin 1 1 0 },
          { ch := 18, off := 4, signed := true, xf := .lin 1 1 0 },
          { ch := 19, off := 6, signed := false, xf := .int } ] } ]

/-- EX, the one configuration the spec writes out (not normative), with a given transport and CRC update. `EX-U` is
`Config.ex .uart`, `EX-C` is `Config.ex .can`. -/
def Config.ex (t : Transport) (crc : CrcUpdate) : Config where
  protoVersion := 0x01
  crcUpdate := crc
  bufCap := 49
  versionReeval := true
  shortFrame := .stale
  canDlcCheck := false
  transport := t
  floatRender := .nearestEven
  channels := exChannels
  fastTable := [rpmEntry 2, tpsEntry 4, { ch := 4, off := 5, width := 2, signed := true, xf := .lin 1 10 0 }]
  selOff := 7
  slowTable := exSlowTable
  canTable := exCanTable

end Sys2Proof
end

