-- ==== Sys2Proof/Machine/State.lean ====
section
/-! DEFINITION. The block's state (spec rules R20 to R39): the parser part, the store part, the fixed configuration
the model instance carries, and the model's own view of the interface (requests not yet taken, last response, last
event tag). Also the reasons a step stops and the state after reset. -/

namespace Sys2Proof.Machine

/-- The seven values of `parser_state` (R23). -/
inductive ParserState where
  | seek0
  | seek1
  | seek2
  | seek3
  | seekVersion
  | readLength
  | readBody
  deriving DecidableEq, Repr

/-- The 3-bit encoding of `parser_state` (R23); the value 7 is never reached. -/
def ParserState.code : ParserState → BitVec 3
  | .seek0 => 0
  | .seek1 => 1
  | .seek2 => 2
  | .seek3 => 3
  | .seekVersion => 4
  | .readLength => 5
  | .readBody => 6

/-- A value register's content: an exact rational for `FLOAT`, an integer for `INT` and `FLAGS` (R29). -/
inductive Val where
  | rat (q : Rat)
  | int (n : Int)
  deriving DecidableEq, Repr

/-- One channel register: `val[c]` and `valid[c]` (R29), kept under the channel's id. -/
structure ChanReg where
  ch : Nat
  val : Val
  valid : Bool
  deriving DecidableEq, Repr

/-- The frame buffer (R28, R60) as index and byte pairs, indices strictly rising, no byte equal to 0. An index not
listed reads as 0, the value every entry resets to (R39). -/
abbrev Memory := List Host.Cell

/-- What a read of a channel yields (R30). `nan` is a NaN of unspecified bit pattern (spec item I3); `float` is a
binary32 word; `int` is the exact integer of an `INT` or `FLAGS` channel. -/
inductive ReadValue where
  | nan
  | float (w : BitVec 32)
  | int (n : Int)
  deriving DecidableEq, Repr

/-- The response record of GET_SNAPSHOT (R221), channels in the order of `CHANNELS`. -/
structure Snapshot where
  ch : List (Nat × ReadValue)
  valid : List (Nat × Bool)
  connected : Bool
  packetCount : Word
  errorCount : Word
  deriving DecidableEq, Repr

/-- A transaction's response (R90, R95). -/
inductive Response where
  /-- INIT and FEED_BYTE return nothing. -/
  | none
  /-- FEED_CAN's `recognized`, HAS_NEW_DATA's answer. -/
  | bit (b : Bool)
  /-- GET_SNAPSHOT's record. -/
  | snapshot (r : Snapshot)
  deriving DecidableEq, Repr

/-- The event tags of rule R242: test observables, no hardware output (R95). -/
inductive Event where
  | noise
  | hdrAdvance
  | desync
  | lenReject
  | lenAccept
  | body
  | frameOk
  | frameCrcErr
  | canOk
  | canUnknown
  deriving DecidableEq, Repr

/-- The tag codes of rule R242. -/
def Event.code : Event → Nat
  | .noise => 0
  | .hdrAdvance => 1
  | .desync => 2
  | .lenReject => 3
  | .lenAccept => 4
  | .body => 5
  | .frameOk => 6
  | .frameCrcErr => 7
  | .canOk => 8
  | .canUnknown => 9

/-- The machine. `cfg` never changes (R37, log entry 1); `requests`, `response` and `event` are the model's own view
of the transaction interface (log entry 3); the rest is the record `S` of rule R20. -/
structure State where
  /-- The configuration of this model instance (R8, R37). -/
  cfg : Config
  /-- `parser_state` (R23). -/
  parserState : ParserState
  /-- `frame_len` (R24). -/
  frameLen : Byte
  /-- `rx_count` (R25). -/
  rxCount : Byte
  /-- `crc_acc` (R26). -/
  crcAcc : Half
  /-- `crc_rx_lo` (R27). -/
  crcRxLo : Byte
  /-- `buf` (R28). -/
  buf : Memory
  /-- `val[c]` and `valid[c]` for every `c` in `CHANNELS` (R29). -/
  chans : List ChanReg
  /-- `connected` (R32). -/
  connected : Bool
  /-- `packet_count` (R33). -/
  packetCount : Word
  /-- `error_count` (R34). -/
  errorCount : Word
  /-- `new_data` (R35). -/
  newData : Bool
  /-- The requests that have reached the block and wait to be taken, in their total order (R70). -/
  requests : List Request
  /-- The response of the last transaction (R90, R95). -/
  response : Response
  /-- The event tag of the last transaction, where it has one (R242). -/
  event : Option Event
  deriving DecidableEq, Repr

/-- Why the machine stops with a fault: never. The block "never traps, halts, stalls for good or signals an
exception" (R240), so the type has no constructor; nobody raises one. -/
inductive Fault where
  deriving DecidableEq, Repr

/-- Model verdicts that end a run (R243). None is a hardware event. -/
inductive Refusal where
  /-- The instruction has no meaning yet. Raised by `exec`'s arm only; no arm raises it. Safe. -/
  | notModelled (mnemonic : String)
  /-- `RESERVED_OP`: the request's code is 5, 6 or 7 (R93). Raised by `step` on what `decode` rejects. Safe. -/
  | reservedOp (op : BitVec 3)
  /-- `PORT_DISABLED`: FEED_BYTE or FEED_CAN on a block without that port (R94). Raised by those two meanings. Safe. -/
  | portDisabled
  /-- `BAD_CONFIG`: the configuration fails a check of rule R9. Raised by `step` before anything else. Safe. -/
  | badConfig
  deriving DecidableEq, Repr

/-- The reset value of a value register (R29, R39): 0, as the kind holds it. -/
def Val.zero : ChanKind → Val
  | .float => .rat 0
  | .int => .int 0
  | .flags => .int 0

/-- The register file at reset: every channel 0 and not valid (R39). -/
def freshChans (channels : List Channel) : List ChanReg :=
  channels.map fun c => { ch := c.id, val := Val.zero c.kind, valid := false }

/-- The block right after power-on with a given configuration (R39, R270). -/
def State.powerOn (cfg : Config) : State where
  cfg := cfg
  parserState := .seek0
  frameLen := 0
  rxCount := 0
  crcAcc := 0xFFFF
  crcRxLo := 0
  buf := []
  chans := freshChans cfg.channels
  connected := false
  packetCount := 0
  errorCount := 0
  newData := false
  requests := []
  response := .none
  event := none

/-- The machine right after reset (R39, R270). The spec leaves the configuration open: the model names the spec's
example `EX-U`, with the peer's unknown CRC update (log entry 2, DESIGN CHOICE). -/
def State.reset : State := State.powerOn (Config.ex .uart .peer)

end Sys2Proof.Machine
end

