-- ==== Sys2Proof/Machine/Flags.lean ====
section
/-! DEFINITION. The flags and counters (spec rules R32 to R36): every way a transaction other than INIT changes
`connected`, `new_data`, `packet_count` and `error_count`. `valid[c]` is set by `State.writeChannel` alone. -/

namespace Sys2Proof.Machine

/-- A successful decode: `connected <- true`, `new_data <- true` (R133, R203). -/
def State.markDecoded (s : State) : State := { s with connected := true, newData := true }

/-- A frame that passed its CRC check: `packet_count +₃₂ 1` (R33). -/
def State.countPacket (s : State) : State := { s with packetCount := s.packetCount + 1 }

/-- A frame that failed its CRC check: `error_count +₃₂ 1` (R34). -/
def State.countError (s : State) : State := { s with errorCount := s.errorCount + 1 }

/-- The read that clears: `new_data <- false` (R223). -/
def State.clearNewData (s : State) : State := { s with newData := false }

end Sys2Proof.Machine
end

