-- ==== Sys2Proof/Machine/Operands.lean ====
section
/-! DEFINITION. Operand decoding of every field: byte order, raw-field assembly and transforms (spec rules R62,
R106, R161). -/

namespace Sys2Proof.Machine

/-- `hi || lo`, the byte at the lower index is the low byte (R14, R62). -/
def le16 (lo hi : Byte) : Half := hi ++ lo

/-- The raw word of a field at byte `off` (R106). -/
def rawWord (src : Nat → Byte) (off width : Nat) : Half :=
  if width = 1 then (src off).setWidth 16 else le16 (src off) (src (off + 1))

/-- The raw integer of a field: 8 or 16 bits of the word, two's complement where signed (R106). -/
def rawInt (width : Nat) (signed : Bool) (word : Half) : Int :=
  if width = 1 then
    if signed then (word.setWidth 8).toInt else (word.setWidth 8).toNat
  else
    if signed then word.toInt else word.toNat

/-- `raw(src, off, width, signed)` (R106). -/
def raw (src : Nat → Byte) (off width : Nat) (signed : Bool) : Int := rawInt width signed (rawWord src off width)

/-- `eval(xf, x)`, exact (R161). -/
def evalTransform : Transform → Int → Val
  | .lin num den add, x => .rat ((x : Rat) * (num : Rat) / (den : Rat) + add)
  | .recip k, x => .rat (if x = 0 then 0 else (k : Rat) / (x : Rat))
  | .int, x => .int x

/-- `data[k]` of a CAN frame (R88). A CAN field has `off` 0, 2, 4 or 6 (R9 check 7), so `k` is at most 7. -/
def CanData.byte (d : CanData) : Nat → Byte
  | 0 => d.d0
  | 1 => d.d1
  | 2 => d.d2
  | 3 => d.d3
  | 4 => d.d4
  | 5 => d.d5
  | 6 => d.d6
  | 7 => d.d7
  | _ => 0

end Sys2Proof.Machine
end

