-- ==== Sys2Proof/Machine/Ops.lean ====
section
/-! DEFINITION. The named operations over the frame buffer, the channel registers, the parser registers and the
interface (spec rules R12, R28 to R31, R60, R61, R168). Rule R246 gives the block no trap entry and rule R247 no
return from one, so no such operation stands here: the only thing that ends a run is `refuse`. -/

namespace Sys2Proof.Machine

/-! ## The frame buffer as memory -/

/-- One byte of the buffer: an index not listed reads as 0, its reset value (R39). -/
def Memory.read : Memory → Nat → Byte
  | [], _ => 0
  | (k, v) :: rest, i => if k = i then v else Memory.read rest i

/-- Store one byte, keeping the canonical form: rising indices, no byte 0 listed. -/
def Memory.write : Memory → Nat → Byte → Memory
  | [], i, v => if v = 0#8 then [] else [(i, v)]
  | (k, w) :: rest, i, v =>
    if i < k then (if v = 0#8 then (k, w) :: rest else (i, v) :: (k, w) :: rest)
    else if i = k then (if v = 0#8 then rest else (i, v) :: rest)
    else (k, w) :: Memory.write rest i v

/-- Indices strictly rise from above a bound. -/
def Memory.risesAbove : Nat → Memory → Bool
  | _, [] => true
  | lo, (k, _) :: rest => decide (lo ≤ k) && Memory.risesAbove (k + 1) rest

/-- The canonical form: indices strictly rising, no entry equal to what an unlisted index reads as. -/
def Memory.wf (m : Memory) : Bool := Memory.risesAbove 0 m && m.all fun c => !(c.2 == 0)

/-- Every listed index is an index of the buffer (R28). -/
def Memory.within (cap : Nat) (m : Memory) : Bool := m.all fun c => decide (c.1 < cap)

/-- `BufRead(i)` (R12). -/
def State.bufRead (s : State) (i : Nat) : Byte := s.buf.read i

/-- `BufWrite(i, v)`: a byte at or beyond `BUF_CAP` is dropped (R12, R61). -/
def State.bufWrite (i : Nat) (v : Byte) (s : State) : State :=
  if i < s.cfg.bufCap then { s with buf := s.buf.write i v } else s

/-! ## The channel registers -/

/-- The register of channel `ch` in a register file, none where there is no such channel. -/
def findReg : List ChanReg → Nat → Option ChanReg
  | [], _ => none
  | r :: rest, ch => if r.ch = ch then some r else findReg rest ch

/-- `val[c]`; 0 where the block has no such channel. -/
def State.valOf (s : State) (ch : Nat) : Val :=
  match findReg s.chans ch with
  | some r => r.val
  | none => .int 0

/-- `valid[c]`; false where the block has no such channel. -/
def State.validOf (s : State) (ch : Nat) : Bool :=
  match findReg s.chans ch with
  | some r => r.valid
  | none => false

/-- Set the register of one channel in a register file. -/
def setReg (ch : Nat) (v : Val) (regs : List ChanReg) : List ChanReg :=
  regs.map fun r => if r.ch = ch then { r with val := v, valid := true } else r

/-- `write_channel(s', c, v)`: the value, and the channel is valid (R168). -/
def State.writeChannel (ch : Nat) (v : Val) (s : State) : State := { s with chans := setReg ch v s.chans }

/-! ## The parser registers -/

/-- `S.parser_state <- p`. -/
def State.moveTo (p : ParserState) (s : State) : State := { s with parserState := p }

/-! ## The interface -/

/-- A transaction's response and its event tag (R90, R95, R242). -/
def State.answer (r : Response) (e : Option Event) (s : State) : State := { s with response := r, event := e }

/-- Take the next request in the total order (R70), none where nothing has arrived. -/
def State.fetch (s : State) : Option (Request × State) :=
  match s.requests with
  | [] => none
  | q :: rest => some (q, { s with requests := rest })

/-- `refuse(reason)` (R12, R243): a model verdict with no successor state. -/
def refuse (r : Refusal) : Host.Outcome State Fault Refusal := .refused r

end Sys2Proof.Machine
end

