-- ==== Sys2Proof/Machine/Can.lean ====
section
/-! DEFINITION. FEED_CAN: the CAN identifier-to-field mapper (spec rules R200 to R206). -/

namespace Sys2Proof.Machine

/-- `lookup(CAN_TABLE, id)`: all 32 bits compared, no mask (R201). -/
def lookupCan (table : List CanEntry) (id : Word) : Option CanEntry := table.find? fun E => E.id == id

/-- Is the field decoded under this data length code (R202)? -/
def canFieldWithin (dlcCheck : Bool) (dlc : Byte) (f : CanField) : Bool := !dlcCheck || decide (f.off + 2 ≤ dlc.toNat)

/-- Decode one CAN field (R200, R106): always two bytes. -/
def decodeCanField (data : CanData) (dlc : Byte) (f : CanField) (s : State) : State :=
  if canFieldWithin s.cfg.canDlcCheck dlc f then
    s.writeChannel f.ch (evalTransform f.xf (raw (CanData.byte data) f.off 2 f.signed))
  else s

/-- Decode an entry's fields in list order (R200). -/
def decodeCanFields (data : CanData) (dlc : Byte) : List CanField → State → State
  | [], s => s
  | f :: rest, s => decodeCanFields data dlc rest (decodeCanField data dlc f s)

/-- FEED_CAN as a function of the state (R200, R203, R204). -/
def feedCan (id : Word) (data : CanData) (dlc : Byte) (s : State) : State :=
  match lookupCan s.cfg.canTable id with
  | none => s.answer (.bit false) (some .canUnknown)
  | some E => ((decodeCanFields data dlc E.fields s).markDecoded).answer (.bit true) (some .canOk)

/-- FEED_CAN (R200), refused where the block has no CAN port (R94). -/
def execFeedCan (id : Word) (data : CanData) (dlc : Byte) (s : State) : Host.Outcome State Fault Refusal :=
  if s.cfg.transport.hasCan then .next (feedCan id data dlc s) else refuse .portDisabled

end Sys2Proof.Machine
end

