-- ==== Sys2Proof/Machine/Crc.lean ====
section
/-! DEFINITION. The CRC-16 validator (spec rules R130 to R132): the update function the configuration selects, the
frame CRC as a fold of it, the law every admissible update satisfies, and the two candidates. -/

namespace Sys2Proof.Machine

/-- `CAND_A` of rule R132 (not normative): non-reflected, polynomial 0x1021. -/
def crcCandA (crc : Half) (d : Byte) : Half :=
  let c1 := (crc >>> 8) ||| (crc <<< 8)
  let c2 := c1 ^^^ d.setWidth 16
  let c3 := c2 ^^^ ((c2 &&& 0x00FF) >>> 4)
  let c4 := c3 ^^^ (c3 <<< 12)
  c4 ^^^ ((c4 &&& 0x00FF) <<< 5)

/-- `CAND_B` of rule R132 (not normative): reflected, polynomial 0x8408. -/
def crcCandB (crc : Half) (d : Byte) : Half :=
  let t0 : Byte := d ^^^ crc.setWidth 8
  let t : Byte := t0 ^^^ (t0 <<< 4)
  ((t.setWidth 16 <<< 8) ||| (crc >>> 8)) ^^^ (t >>> 4).setWidth 16 ^^^ (t.setWidth 16 <<< 3)

/-- The `CRC_UPDATE` a configuration selects (R131). -/
def crcUpdate : CrcUpdate → Half → Byte → Half
  | .peer => Config.crcPeer
  | .candA => crcCandA
  | .candB => crcCandB

/-- `crc(B[0..])`: the fold of the update over the bytes from `CRC_INIT` (R130). -/
def crcOf (u : Half → Byte → Half) (bytes : List Byte) : Half := bytes.foldl u crcInit

/-- Bit `j` of byte `k` flipped. -/
def flipBit (bytes : List Byte) (k j : Nat) : List Byte := bytes.modify k fun b => b ^^^ BitVec.twoPow 8 j

/-- The law of rule R131: for every accepted length `L` and every `B[1..L-2]`, flipping one bit of `B[1..L-2]`
changes the CRC of `B[0..L-2]`. A named hypothesis wherever it is used, never assumed of `Config.crcPeer`. -/
def DetectsSingleBitErrors (u : Half → Byte → Half) : Prop :=
  ∀ (len : Byte) (body : List Byte) (k j : Nat),
    lenMin ≤ len.toNat → len.toNat ≤ lenMax → body.length + 2 = len.toNat → k < body.length → j < 8 →
    crcOf u (len :: body) ≠ crcOf u (len :: flipBit body k j)

end Sys2Proof.Machine
end

