-- ==== Sys2Proof/Machine/FieldDecoders.lean ====
section
/-! DEFINITION. The fast-field and slow-record decoders (spec rules R160 to R172): sub-operations of FEED_BYTE's
commit, over the frame buffer. -/

namespace Sys2Proof.Machine

/-- `avail(a, w)` in a frame of length `len` (R164); `a + w - 1 ≤ len - 2` over the integers. -/
def fieldAvailable (p : ShortFramePolicy) (len : Byte) (a w : Nat) : Bool :=
  match p with
  | .stale => true
  | .skip => decide (a + w + 1 ≤ len.toNat)

/-- `decode_field(s', e, a)` (R165). -/
def decodeField (e : FieldEntry) (a : Nat) (s : State) : State :=
  if fieldAvailable s.cfg.shortFrame s.frameLen a e.width then
    s.writeChannel e.ch (evalTransform e.xf (raw s.bufRead a e.width e.signed))
  else s

/-- Decode a table's entries in list order, each at `base + e.off` (R166, R170). -/
def decodeTable (base : Nat) : List FieldEntry → State → State
  | [], s => s
  | e :: rest, s => decodeTable base rest (decodeField e (base + e.off) s)

/-- FAST_DECODE (R166). -/
def fastDecode (s : State) : State := decodeTable 0 s.cfg.fastTable s

/-- The entries SLOW_DECODE applies: those of the selected slot, none where the selector is not available (R170) or is
10 or more (R171). -/
def slowEntries (s : State) : List FieldEntry :=
  if fieldAvailable s.cfg.shortFrame s.frameLen s.cfg.selOff 1 then
    let sel := (s.bufRead s.cfg.selOff).toNat
    if sel < nSlots then s.cfg.slowTable.getD sel [] else []
  else []

/-- SLOW_DECODE (R170, R171). -/
def slowDecode (s : State) : State := decodeTable (s.cfg.selOff + 1) (slowEntries s) s

end Sys2Proof.Machine
end

