-- ==== Sys2Proof/Machine/Framer.lean ====
section
/-! DEFINITION. FEED_BYTE: the frame reassembler (spec rules R120 to R135), one definition an arm of its state
machine, and the commit of a good frame. -/

namespace Sys2Proof.Machine

/-- `seek0(b)` (R125). -/
def seek0 (b : Byte) : ParserState := if b = hdr0 then .seek1 else .seek0

/-- State `SEEK_0` (R121). -/
def feedSeek0 (b : Byte) (s : State) : State :=
  (s.moveTo (seek0 b)).answer .none (some (if b = hdr0 then .hdrAdvance else .noise))

/-- States `SEEK_1`, `SEEK_2`, `SEEK_3` with expected byte `h` and successor `n` (R122). -/
def feedHeader (h : Byte) (n : ParserState) (b : Byte) (s : State) : State :=
  if b = h then (s.moveTo n).answer .none (some .hdrAdvance)
  else (s.moveTo (seek0 b)).answer .none (some .desync)

/-- State `SEEK_VERSION` (R123). -/
def feedVersion (b : Byte) (s : State) : State :=
  if b = s.cfg.protoVersion then (s.moveTo .readLength).answer .none (some .hdrAdvance)
  else (s.moveTo (if s.cfg.versionReeval then seek0 b else .seek0)).answer .none (some .desync)

/-- `4 ≤ b ≤ 48` (R83, R126). -/
def lengthAccepted (b : Byte) : Bool := decide (lenMin ≤ b.toNat) && decide (b.toNat ≤ lenMax)

/-- An accepted length byte opens the frame: it is frame byte 0 (R126). -/
def openFrame (b : Byte) (s : State) : State :=
  { (s.bufWrite 0 b) with
    frameLen := b
    crcAcc := crcUpdate s.cfg.crcUpdate crcInit b
    rxCount := 1
    parserState := .readBody }

/-- State `READ_LENGTH` (R124, R126). -/
def feedLength (b : Byte) (s : State) : State :=
  if lengthAccepted b then (openFrame b s).answer .none (some .lenAccept)
  else (s.moveTo .seek0).answer .none (some .lenReject)

/-- What every body byte does: stored at `buf[i]`, CRC-covered up to frame byte `frame_len - 2`, counted (R127). -/
def bodyByte (b : Byte) (s : State) : State :=
  { (s.bufWrite s.rxCount.toNat b) with
    crcAcc := if s.rxCount.toNat + 2 ≤ s.frameLen.toNat then crcUpdate s.cfg.crcUpdate s.crcAcc b else s.crcAcc
    rxCount := s.rxCount + 1 }

/-- The CRC low byte, frame byte `frame_len - 1`, is captured (R128). -/
def captureCrcLow (b : Byte) (s : State) : State := { s with crcRxLo := b }

/-- COMMIT_FRAME (R133), on the state with the parser updates of rule R129 already applied. -/
def commitFrame (s : State) : State :=
  ((slowDecode (fastDecode s)).countPacket.markDecoded).answer .none (some .frameOk)

/-- CRC_FAIL (R134). -/
def crcFail (s : State) : State := s.countError.answer .none (some .frameCrcErr)

/-- The parser after the completing byte, whatever the outcome (R129). -/
def closeFrame (s : State) : State := { s with parserState := .seek0, rxCount := 0 }

/-- The completing byte is the CRC high byte: compare, then commit or count an error (R129). -/
def completeFrame (b : Byte) (s : State) : State :=
  if s.crcAcc = le16 s.crcRxLo b then commitFrame (closeFrame s) else crcFail (closeFrame s)

/-- State `READ_BODY` (R127, R128, R129). -/
def feedBody (b : Byte) (s : State) : State :=
  if s.rxCount = s.frameLen then completeFrame b (bodyByte b s)
  else if s.rxCount.toNat + 1 = s.frameLen.toNat then
    (captureCrcLow b (bodyByte b s)).answer .none (some .body)
  else (bodyByte b s).answer .none (some .body)

/-- FEED_BYTE as a function of the state: defined for every byte in every state (R120, R240). -/
def feedByte (b : Byte) (s : State) : State :=
  match s.parserState with
  | .seek0 => feedSeek0 b s
  | .seek1 => feedHeader hdr1 .seek2 b s
  | .seek2 => feedHeader hdr2 .seek3 b s
  | .seek3 => feedHeader hdr3 .seekVersion b s
  | .seekVersion => feedVersion b s
  | .readLength => feedLength b s
  | .readBody => feedBody b s

/-- FEED_BYTE (R120), refused where the block has no byte port (R94). -/
def execFeedByte (b : Byte) (s : State) : Host.Outcome State Fault Refusal :=
  if s.cfg.transport.hasUart then .next (feedByte b s) else refuse .portDisabled

end Sys2Proof.Machine
end

