-- ==== Sys2Proof/Machine/ConfigChecks.lean ====
section
/-! DEFINITION. The checks of a configuration (spec rule R9, numbered as there), the format checks of rules R8, R101
and R102, and rule R10's source configurations. `Sys2Proof/WellFormed.lean` puts them together. -/

namespace Sys2Proof

/-- A frame field is one or two bytes wide (R100). -/
def widthOk (w : Nat) : Bool := w == 1 || w == 2

/-- No element of the first list is in the second. -/
def disjointChans (a b : List Nat) : Bool := a.all fun c => !b.contains c

/-- Every list is disjoint from every later one. -/
def pairwiseDisjoint : List (List Nat) → Bool
  | [] => true
  | a :: rest => rest.all (disjointChans a) && pairwiseDisjoint rest

/-- No repeats. -/
def noRepeats {α : Type} [DecidableEq α] : List α → Bool
  | [] => true
  | a :: rest => !rest.contains a && noRepeats rest

/-- The channels a list of field entries writes. -/
def writtenBy (es : List FieldEntry) : List Nat := es.map (·.ch)

/-- Every transform of the three tables, with its channel and its signedness. -/
def Config.allFields (c : Config) : List (Nat × Bool × Transform) :=
  c.fastTable.map (fun e => (e.ch, e.signed, e.xf)) ++
  c.slowTable.flatten.map (fun e => (e.ch, e.signed, e.xf)) ++
  (c.canTable.flatMap (·.fields)).map (fun f => (f.ch, f.signed, f.xf))

/-- The kind of a channel, none where the id is not in `CHANNELS`. -/
def Config.kindOf (c : Config) (ch : Nat) : Option ChanKind :=
  (c.channels.find? fun k => k.id == ch).map (·.kind)

/-- `LIN` has `den > 0` (R101). -/
def Transform.formatOk : Transform → Bool
  | .lin _ den _ => decide (0 < den)
  | .recip _ => true
  | .int => true

/-- `INT` transforms write `INT` or `FLAGS` channels, the others `FLOAT` channels (R9 check 9). -/
def Transform.fitsKind : Transform → ChanKind → Bool
  | .lin _ _ _, k => k == .float
  | .recip _, k => k == .float
  | .int, k => k == .int || k == .flags

/-- Only an unsigned field has transform `RECIP` (R9 check 8). -/
def Transform.fitsSign : Transform → Bool → Bool
  | .recip _, signed => !signed
  | .lin _ _ _, _ => true
  | .int, _ => true

/-- The table formats: a channel id names one channel (R8, log entry 10), there are exactly `NSLOTS` slow lists
(R102), and every `LIN` has a positive denominator (R101). -/
def Config.formatsOk (c : Config) : Bool :=
  noRepeats (c.channels.map (·.id)) && decide (c.slowTable.length = nSlots) &&
  c.allFields.all (fun f => f.2.2.formatOk)

/-- R9 check 1. -/
def Config.check1 (c : Config) : Bool := decide (1 ≤ c.bufCap)

/-- R9 check 2. -/
def Config.check2 (c : Config) : Bool :=
  c.fastTable.all fun e => widthOk e.width && decide (2 ≤ e.off) && decide (e.off + e.width ≤ c.bufCap)

/-- R9 check 3. -/
def Config.check3 (c : Config) : Bool := decide (2 ≤ c.selOff) && decide (c.selOff < c.bufCap)

/-- R9 check 4. -/
def Config.check4 (c : Config) : Bool :=
  c.slowTable.all fun slot => slot.all fun e =>
    widthOk e.width && decide (e.off + e.width ≤ slotLen) && decide (c.selOff + 1 + e.off + e.width ≤ c.bufCap)

/-- R9 check 5. -/
def Config.check5 (c : Config) : Bool := pairwiseDisjoint (c.slowTable.map writtenBy)

/-- R9 check 6. -/
def Config.check6 (c : Config) : Bool :=
  c.slowTable.all fun slot => disjointChans (writtenBy c.fastTable) (writtenBy slot)

/-- R9 check 7. -/
def Config.check7 (c : Config) : Bool :=
  noRepeats (c.canTable.map (·.id)) &&
  c.canTable.all fun E =>
    decide (2 ≤ E.fields.length) && decide (E.fields.length ≤ 4) && E.fields.all fun f => [0, 2, 4, 6].contains f.off

/-- R9 check 8. -/
def Config.check8 (c : Config) : Bool := c.allFields.all fun f => f.2.2.fitsSign f.2.1

/-- R9 check 9. -/
def Config.check9 (c : Config) : Bool :=
  c.allFields.all fun f =>
    match c.kindOf f.1 with
    | some k => f.2.2.fitsKind k
    | none => false

/-- A configuration the source admits has exactly one transport (R10). -/
def Config.isSource (c : Config) : Bool := !(c.transport == .both)

end Sys2Proof
end

