-- ==== Sys2Proof/Machine/Render.lean ====
section
/-! DEFINITION. What a consumer reads of a channel (spec rules R30, R169, R221): `FLOAT_RENDER` and the snapshot
record. -/

namespace Sys2Proof.Machine

/-- `⌊log₂ (n/d)⌋` for positive `n` and `d`. -/
def floorLog2 (n d : Nat) : Int :=
  let e : Int := (Nat.log2 n : Int) - (Nat.log2 d : Int)
  let below : Bool := if 0 ≤ e then decide (n < d * 2 ^ e.toNat) else decide (n * 2 ^ (-e).toNat < d)
  if below then e - 1 else e

/-- `n/d` rounded to an integer, ties to even, for positive `d`. -/
def roundEven (n d : Nat) : Nat :=
  let q := n / d
  let r := n % d
  if 2 * r < d then q else if d < 2 * r then q + 1 else if q % 2 = 0 then q else q + 1

/-- The magnitude bits (exponent and fraction) of the binary32 value nearest `n/d`, ties to even: the fraction is
rounded at the exponent of the value, or at the least exponent for a subnormal; too large a value is infinity. -/
def magnitude32 (n d : Nat) : Nat :=
  let e := max (floorLog2 n d) (-126)
  let shift := 23 - e
  let m := if 0 ≤ shift then roundEven (n * 2 ^ shift.toNat) d else roundEven n (d * 2 ^ (-shift).toNat)
  min ((e + 126).toNat * 2 ^ 23 + m) 0x7F800000

/-- The binary32 word nearest an exact value, ties to even, a zero always `+0` (R169). -/
def renderNearestEven (q : Rat) : BitVec 32 :=
  if q = 0 then 0
  else
    let m := magnitude32 q.num.natAbs q.den
    if m = 0 then 0 else if q.num < 0 then BitVec.ofNat 32 (2 ^ 31 + m) else BitVec.ofNat 32 m

/-- `FLOAT_RENDER` of a configuration (R8, R169). -/
def floatRender : FloatRender → Rat → BitVec 32
  | .nearestEven => renderNearestEven
  | .reference => Config.renderReference

/-- The exact value a register holds, as a rational. -/
def Val.toRat : Val → Rat
  | .rat q => q
  | .int n => n

/-- The exact value a register holds, as an integer; an `INT` or `FLAGS` register always holds one (R29, R9 check 9). -/
def Val.toInt : Val → Int
  | .rat q => q.num / q.den
  | .int n => n

/-- `read(c)` from a channel's kind and register (R30). -/
def readAs (render : FloatRender) (kind : ChanKind) (val : Val) (valid : Bool) : ReadValue :=
  match kind with
  | .float => if valid then .float (floatRender render val.toRat) else .nan
  | .int => .int val.toInt
  | .flags => .int val.toInt

end Sys2Proof.Machine
end

