-- ==== Sys2Proof/Machine/StorePort.lean ====
section
/-! DEFINITION. The telemetry store's interface: INIT, HAS_NEW_DATA and GET_SNAPSHOT (spec rules R220 to R226). -/

namespace Sys2Proof.Machine

/-- Every state element at its reset value (R226, R39). The configuration is no state (R37) and the requests after
this one still stand (R70). -/
def initAll (s : State) : State :=
  { s with
    parserState := .seek0
    frameLen := 0
    rxCount := 0
    crcAcc := crcInit
    crcRxLo := 0
    buf := []
    chans := freshChans s.cfg.channels
    connected := false
    packetCount := 0
    errorCount := 0
    newData := false }

/-- INIT (R226). -/
def execInit (s : State) : Host.Outcome State Fault Refusal := .next ((initAll s).answer .none none)

/-- HAS_NEW_DATA: read and clear in one transaction (R223). -/
def execHasNewData (s : State) : Host.Outcome State Fault Refusal :=
  .next (s.clearNewData.answer (.bit s.newData) none)

/-- `read(c)` (R30). -/
def State.readChannel (s : State) (c : Channel) : ReadValue :=
  readAs s.cfg.floatRender c.kind (s.valOf c.id) (s.validOf c.id)

/-- The snapshot record (R221). -/
def State.snapshot (s : State) : Snapshot where
  ch := s.cfg.channels.map fun c => (c.id, s.readChannel c)
  valid := s.cfg.channels.map fun c => (c.id, s.validOf c.id)
  connected := s.connected
  packetCount := s.packetCount
  errorCount := s.errorCount

/-- GET_SNAPSHOT: a value copy of the store part, nothing written (R221, R222). -/
def execGetSnapshot (s : State) : Host.Outcome State Fault Refusal :=
  .next (s.answer (.snapshot s.snapshot) none)

end Sys2Proof.Machine
end

