-- ==== Sys2Proof/Machine/Dispatch.lean ====
section
/-! DEFINITION. One arm per transaction (spec rule R90): each calls its meaning. -/

namespace Sys2Proof.Machine

def exec (i : Instr) (s : State) : Host.Outcome State Fault Refusal :=
  match i with
  | .init => Sys2Proof.Machine.execInit s
  | .feedByte b => Sys2Proof.Machine.execFeedByte b s
  | .feedCan id data dlc => Sys2Proof.Machine.execFeedCan id data dlc s
  | .hasNewData => Sys2Proof.Machine.execHasNewData s
  | .getSnapshot => Sys2Proof.Machine.execGetSnapshot s

end Sys2Proof.Machine
end

