-- ==== Sys2Proof/WellFormed.lean ====
section
/-! DEFINITION. What a well-formed configuration is (spec rule R9) and which transactions a configuration admits
(rule R94). A transaction's operands need no check: their types carry the widths of rule R91. -/

namespace Sys2Proof

/-- A well-formed configuration: every check of rule R9, and the table formats of R8, R101 and R102. -/
def Config.wellFormed (c : Config) : Bool :=
  c.formatsOk && c.check1 && c.check2 && c.check3 && c.check4 && c.check5 && c.check6 && c.check7 && c.check8 &&
  c.check9

/-- The transaction is part of a block with this configuration (R94). -/
def Instr.wellFormed (c : Config) : Instr → Bool
  | .init => true
  | .feedByte _ => c.transport.hasUart
  | .feedCan _ _ _ => c.transport.hasCan
  | .hasNewData => true
  | .getSnapshot => true

end Sys2Proof
end

