-- ==== Sys2Proof/Machine/Step.lean ====
section
/-! DEFINITION. One step: a malformed configuration is refused before anything else (spec rule R243), the next
request in the total order is taken, decoded and executed (R70, R90); without a request the block waits (R135). -/

namespace Sys2Proof.Machine

/-- One step of the machine. -/
def step (s : State) : Host.Outcome State Fault Refusal :=
  if s.cfg.wellFormed then
    match s.fetch with
    | none => .next s
    | some (q, s') =>
      match decode q with
      | .ok i => exec i s'
      | .error (.reservedOp op) => refuse (.reservedOp op)
  else refuse .badConfig

/-- The transport of a block that has the port a transaction arrives on (R94): the one it has where that will do. -/
def transportFor (t : Transport) : Option Instr → Transport
  | some (.feedByte _) => if t.hasUart then t else .uart
  | some (.feedCan _ _ _) => if t.hasCan then t else .can
  | _ => t

/-- Put a table word where `step` takes its next request: at the head of the requests, on a block that has the port
the transaction arrives on (R94: without it the transaction "is not part of the block"; log entry 6). -/
def State.withFetchWord (s : State) (nbits w : Nat) : State :=
  { s with
    requests := tableRequest nbits w :: s.requests
    cfg := { s.cfg with transport := transportFor s.cfg.transport (decodeTableWord nbits w) } }

end Sys2Proof.Machine
end

