-- ==== Sys2Proof/Machine/Script.lean ====
section
/-! DEFINITION. Sequences of transactions: executing a list in order (spec rule R70), and the pseudo-transactions of
rule R96, which expand to FEED_BYTE transactions. -/

namespace Sys2Proof.Machine

/-- Execute transactions in order, each on the state the previous one left (R70), to the first refusal. -/
def execAll : List Instr → State → Host.Outcome State Fault Refusal
  | [], s => .next s
  | i :: rest, s =>
    match exec i s with
    | .next s' => execAll rest s'
    | .fault f => .fault f
    | .refused r => .refused r

/-- `FEED_BYTES b1, …, bn` (R96). -/
def feedBytes (bs : List Byte) : List Instr := bs.map .feedByte

/-- The header bytes and the version byte in front of a frame (R80). -/
def preamble (version : Byte) : List Byte := [hdr0, hdr1, hdr2, hdr3, version]

/-- `FEED_FRAME_BADCRC V, [B0, …], c`: the given CRC word, low byte first (R96). -/
def feedFrameBadCrc (version : Byte) (frame : List Byte) (c : Half) : List Instr :=
  feedBytes (preamble version ++ frame ++ [c.setWidth 8, (c >>> 8).setWidth 8])

/-- `FEED_FRAME V, [B0, …, B(L-2)]`: the frame with its CRC (R96, R130). -/
def feedFrame (u : Half → Byte → Half) (version : Byte) (frame : List Byte) : List Instr :=
  feedFrameBadCrc version frame (crcOf u frame)

end Sys2Proof.Machine
end

