-- ==== Sys2Proof/Safety.lean ====
section
/-! DEFINITION. What claims about the machine are stated in: which parts of the state two states share (frames), the
machine's invariant, the channels a decode can write, and the bits of a request a transaction uses. -/

namespace Sys2Proof.Machine

/-! ## Frames: what a transaction left alone -/

/-- The parser part (R20) is the same, the buffer byte for byte. -/
structure SameParser (s t : State) : Prop where
  parserState : t.parserState = s.parserState
  frameLen : t.frameLen = s.frameLen
  rxCount : t.rxCount = s.rxCount
  crcAcc : t.crcAcc = s.crcAcc
  crcRxLo : t.crcRxLo = s.crcRxLo
  bytes : ∀ i, t.bufRead i = s.bufRead i

/-- Every channel register is the same: `val[c]` and `valid[c]` for every `c` (R31). -/
structure SameChannels (s t : State) : Prop where
  val : ∀ c, t.valOf c = s.valOf c
  valid : ∀ c, t.validOf c = s.validOf c

/-- The store part (R20) is the same. -/
structure SameStore (s t : State) : Prop where
  channels : SameChannels s t
  connected : t.connected = s.connected
  packetCount : t.packetCount = s.packetCount
  errorCount : t.errorCount = s.errorCount
  newData : t.newData = s.newData

/-- The configuration and the requests still waiting are the same (R37, R70). -/
structure SameHost (s t : State) : Prop where
  cfg : t.cfg = s.cfg
  requests : t.requests = s.requests

/-- Everything but `parser_state` is the same: what every header arm leaves (R121 to R124). -/
structure SameButParserState (s t : State) : Prop where
  frameLen : t.frameLen = s.frameLen
  rxCount : t.rxCount = s.rxCount
  crcAcc : t.crcAcc = s.crcAcc
  crcRxLo : t.crcRxLo = s.crcRxLo
  bytes : ∀ i, t.bufRead i = s.bufRead i
  store : SameStore s t
  host : SameHost s t

/-! ## The invariant -/

/-- The value has the type its channel's kind holds (R29). -/
def Val.hasKind : Val → ChanKind → Prop
  | .rat _, k => k = .float
  | .int _, k => k = .int ∨ k = .flags

/-- How many bytes of the current frame have entered the running CRC (R26, R127). -/
def State.crcCovered (s : State) : Nat := min s.rxCount.toNat (s.frameLen.toNat - 1)

/-- Inside a frame: the declared length is an accepted one (R24), the next index lies in the frame (R25), the first
buffer byte is the length (R126), the running CRC is the CRC of the covered bytes as the buffer holds them (R26), and
the captured CRC low byte is frame byte `frame_len - 1` (R27). -/
structure FrameOpen (s : State) : Prop where
  lenLow : lenMin ≤ s.frameLen.toNat
  lenHigh : s.frameLen.toNat ≤ lenMax
  rxLow : 1 ≤ s.rxCount.toNat
  rxHigh : s.rxCount.toNat ≤ s.frameLen.toNat
  lengthByte : 1 ≤ s.cfg.bufCap → s.bufRead 0 = s.frameLen
  crc : s.rxCount.toNat ≤ s.cfg.bufCap →
    s.crcAcc = crcOf (crcUpdate s.cfg.crcUpdate) ((List.range s.crcCovered).map s.bufRead)
  crcLow : s.rxCount = s.frameLen → s.frameLen.toNat ≤ s.cfg.bufCap → s.crcRxLo = s.bufRead (s.frameLen.toNat - 1)

/-- What every step keeps. -/
structure Inv (s : State) : Prop where
  /-- Inside a frame (R24 to R27). -/
  frame : s.parserState = .readBody → FrameOpen s
  /-- `rx_count` is 0 in every state other than `READ_BODY` (R25). -/
  idle : s.parserState ≠ .readBody → s.rxCount = 0
  /-- The buffer is in its canonical form. -/
  bufForm : s.buf.wf = true
  /-- Nothing is stored at or beyond `BUF_CAP` (R61). -/
  bufRange : s.buf.within s.cfg.bufCap = true
  /-- There is one register a channel, in the order of `CHANNELS` (R29). -/
  chanIds : s.chans.map (·.ch) = s.cfg.channels.map (·.id)
  /-- `FLOAT` registers hold rationals, the others integers (R29). -/
  kinds : ∀ c ∈ s.cfg.channels, (s.valOf c.id).hasKind c.kind
  /-- A channel that is not valid still holds its reset value (R31, R168). -/
  untouched : ∀ c ∈ s.cfg.channels, s.validOf c.id = false → s.valOf c.id = Val.zero c.kind
  /-- A valid channel was written by a decode, which set `connected` (R32, R168). -/
  validConnected : ∀ c, s.validOf c = true → s.connected = true
  /-- The new-data flag was raised by a decode, which set `connected` (R32, R35). -/
  newDataConnected : s.newData = true → s.connected = true
  /-- A counted packet set `connected` (R32, R33). -/
  countConnected : s.packetCount ≠ 0 → s.connected = true

/-! ## What a decode writes -/

/-- The channels a list of CAN fields names. -/
def writtenByCan (fs : List CanField) : List Nat := fs.map (·.ch)

/-- A FEED_BYTE reaches the completing byte of its frame (R129). -/
def State.completes (s : State) : Prop := s.parserState = .readBody ∧ s.rxCount = s.frameLen

/-- The parser is where the header search is complete (R136). -/
def State.searching (s : State) : Prop :=
  s.parserState = .seek0 ∨ s.parserState = .seek1 ∨ s.parserState = .seek2 ∨ s.parserState = .seek3 ∨
  (s.parserState = .seekVersion ∧ s.cfg.versionReeval = true ∧ s.cfg.protoVersion ≠ hdr0)

/-- The received CRC word equals the running CRC: `crc_acc = 256 · b + crc_rx_lo` (R129). -/
def State.crcMatches (b : Byte) (s : State) : Prop := s.crcAcc.toNat = 256 * b.toNat + s.crcRxLo.toNat

/-- A FEED_BYTE that commits a frame: the block has the byte port, the byte completes a frame, the CRC matches. -/
structure Commits (b : Byte) (s : State) : Prop where
  port : s.cfg.transport.hasUart = true
  completes : s.completes
  crc : s.crcMatches b

/-- A field at `base + e.off` is available in the frame being received (R164). -/
def Available (s : State) (a w : Nat) : Prop := s.cfg.shortFrame = .stale ∨ (a : Int) + w - 1 ≤ s.frameLen.toNat - 2

/-- The state just before a completing byte is taken, with that byte stored and the parser closed: what COMMIT_FRAME
decodes (R129, R133). -/
def State.atCommit (b : Byte) (s : State) : State := closeFrame (bodyByte b s)

/-! ## Transactions by role (R248) -/

/-- The consumer's transactions (R248). -/
def isConsumer : Instr → Bool
  | .init => false
  | .feedByte _ => false
  | .feedCan _ _ _ => false
  | .hasNewData => true
  | .getSnapshot => true

/-- The two states agree on everything but `new_data`, the response and the event tag. -/
structure AgreeButNewData (s t : State) : Prop where
  host : SameHost s t
  parser : SameParser s t
  buf : t.buf = s.buf
  chans : t.chans = s.chans
  connected : t.connected = s.connected
  packetCount : t.packetCount = s.packetCount
  errorCount : t.errorCount = s.errorCount

/-! ## Configurations (R9), check by check -/

/-- Some table of the configuration has a field that writes channel `ch`, with this signedness and transform. -/
def HasField (c : Config) (ch : Nat) (signed : Bool) (xf : Transform) : Prop :=
  (∃ e ∈ c.fastTable, e.ch = ch ∧ e.signed = signed ∧ e.xf = xf) ∨
  (∃ slot ∈ c.slowTable, ∃ e ∈ slot, e.ch = ch ∧ e.signed = signed ∧ e.xf = xf) ∨
  (∃ E ∈ c.canTable, ∃ f ∈ E.fields, f.ch = ch ∧ f.signed = signed ∧ f.xf = xf)

/-- The nine checks of rule R9, as the rule numbers them. -/
structure NineChecks (c : Config) : Prop where
  check1 : 1 ≤ c.bufCap
  check2 : ∀ e ∈ c.fastTable, (e.width = 1 ∨ e.width = 2) ∧ 2 ≤ e.off ∧ e.off + e.width ≤ c.bufCap
  check3 : 2 ≤ c.selOff ∧ c.selOff < c.bufCap
  check4 : ∀ slot ∈ c.slowTable, ∀ e ∈ slot,
    (e.width = 1 ∨ e.width = 2) ∧ e.off + e.width ≤ slotLen ∧ c.selOff + 1 + e.off + e.width ≤ c.bufCap
  check5 : c.slowTable.Pairwise fun slot slot' => ∀ e ∈ slot, ∀ e' ∈ slot', e.ch ≠ e'.ch
  check6 : ∀ e ∈ c.fastTable, ∀ slot ∈ c.slowTable, ∀ e' ∈ slot, e.ch ≠ e'.ch
  check7 : (c.canTable.map (·.id)).Nodup ∧ ∀ E ∈ c.canTable,
    2 ≤ E.fields.length ∧ E.fields.length ≤ 4 ∧ ∀ f ∈ E.fields, f.off = 0 ∨ f.off = 2 ∨ f.off = 4 ∨ f.off = 6
  check8 : ∀ ch signed k, HasField c ch signed (.recip k) → signed = false
  check9 : ∀ ch signed xf, HasField c ch signed xf → ∃ k ∈ c.channels, k.id = ch ∧
    match xf with
    | .lin _ _ _ => k.kind = .float
    | .recip _ => k.kind = .float
    | .int => k.kind = .int ∨ k.kind = .flags

/-- The table formats: one kind a channel id (R8, log entry 10), ten slow lists (R102), `den > 0` (R101). -/
structure TableFormats (c : Config) : Prop where
  ids : (c.channels.map (·.id)).Nodup
  slots : c.slowTable.length = 10
  dens : ∀ ch signed num den add, HasField c ch signed (.lin num den add) → 0 < den

/-! ## Runs -/

/-- The tag of a successful decode (R242): a committed frame or a recognised CAN message. -/
def isSuccess (e : Option Event) : Bool := e == some .frameOk || e == some .canOk

/-- How many successful decodes a sequence of transactions performs, counted by tag, up to the first refusal. -/
def successes : List Instr → State → Nat
  | [], _ => 0
  | i :: rest, s =>
    match exec i s with
    | .next t => (if isSuccess t.event then 1 else 0) + successes rest t
    | .fault _ => 0
    | .refused _ => 0

/-- No byte of the sequence reaches the completing byte of a frame (R138). -/
def neverCompletes : List Byte → State → Prop
  | [], _ => True
  | b :: rest, s => ¬ s.completes ∧ neverCompletes rest (feedByte b s)

/-- In the run of these transactions from this state some FEED_BYTE commits a frame with selector `k`, with the
selector and every field of slot `k` available (R173). -/
inductive SlotCommitted (k : Nat) : List Instr → State → Prop where
  | here (b : Byte) (rest : List Instr) (s : State) (commits : Commits b s) (selAvailable : Available s s.cfg.selOff 1)
      (selector : ((s.atCommit b).bufRead s.cfg.selOff).toNat = k)
      (available : ∀ slot, s.cfg.slowTable[k]? = some slot → ∀ e ∈ slot,
        Available s (s.cfg.selOff + 1 + e.off) e.width) : SlotCommitted k (.feedByte b :: rest) s
  | later (i : Instr) (rest : List Instr) (s t : State) (runs : exec i s = .next t)
      (found : SlotCommitted k rest t) : SlotCommitted k (i :: rest) s

/-! ## Binary32 as exact values (R169) -/

/-- The exponent field of a binary32 word. -/
def expField32 (w : BitVec 32) : Nat := (w.extractLsb' 23 8).toNat

/-- The fraction field of a binary32 word. -/
def fracField32 (w : BitVec 32) : Nat := (w.extractLsb' 0 23).toNat

/-- A binary32 word is a finite number. -/
def isFinite32 (w : BitVec 32) : Prop := expField32 w < 255

/-- The exact value of a finite binary32 word (IEEE 754). -/
def value32 (w : BitVec 32) : Rat :=
  let m : Rat :=
    if expField32 w = 0 then (fracField32 w : Rat) / 2 ^ 149
    else (2 ^ 23 + fracField32 w : Rat) * 2 ^ expField32 w / 2 ^ 150
  if w.extractLsb' 31 1 = 1 then -m else m

end Sys2Proof.Machine
end

