-- ==== Sys2Proof/Certificates/Slice0/Obligations.lean ====
section
/-! DEFINITION. The statements for the provers, from the spec's numbered rules. -/

open Sys2Proof Sys2Proof.Machine

/-! ## The request word -/

/-- R91, R92: a request word read by its layout, written with division by powers of two. The result depends on no
other bit, so the fields a transaction does not use are ignored. -/
def Obligations.RequestWordIsReadByItsLayout : Prop :=
  ∀ q : Request,
    (q.toNat % 8 = 0 → decode q = .ok .init) ∧
    (q.toNat % 8 = 1 → decode q = .ok (.feedByte (BitVec.ofNat 8 (q.toNat / 2 ^ 3)))) ∧
    (q.toNat % 8 = 2 → decode q = .ok (.feedCan (BitVec.ofNat 32 (q.toNat / 2 ^ 11))
      { d0 := BitVec.ofNat 8 (q.toNat / 2 ^ 51), d1 := BitVec.ofNat 8 (q.toNat / 2 ^ 59),
        d2 := BitVec.ofNat 8 (q.toNat / 2 ^ 67), d3 := BitVec.ofNat 8 (q.toNat / 2 ^ 75),
        d4 := BitVec.ofNat 8 (q.toNat / 2 ^ 83), d5 := BitVec.ofNat 8 (q.toNat / 2 ^ 91),
        d6 := BitVec.ofNat 8 (q.toNat / 2 ^ 99), d7 := BitVec.ofNat 8 (q.toNat / 2 ^ 107) }
      (BitVec.ofNat 8 (q.toNat / 2 ^ 43)))) ∧
    (q.toNat % 8 = 3 → decode q = .ok .hasNewData) ∧
    (q.toNat % 8 = 4 → decode q = .ok .getSnapshot) ∧
    (5 ≤ q.toNat % 8 → decode q = .error (.reservedOp (BitVec.ofNat 3 q.toNat)))

/-- Decode and encode agree on every transaction, with every operand value. -/
def Obligations.DecodeOfEncodeIsTheInstruction : Prop := ∀ i : Instr, decode (encode i) = .ok i

/-- Words written out from the layout of R91: `q = 0x2A9` for FEED_BYTE 0x55, the words 0, 3 and 4, and the
FEED_CAN 0x999 of program P3. -/
def Obligations.SpecWordsDecode : Prop :=
  decode 0 = .ok .init ∧ decode 0x2A9 = .ok (.feedByte 0x55) ∧ decode 3 = .ok .hasNewData ∧
  decode 4 = .ok .getSnapshot ∧
  decode (BitVec.ofNat 115 (2 + 0x999 * 2 ^ 11 + 8 * 2 ^ 43 + 0x0101010101010101 * 2 ^ 51)) =
    .ok (.feedCan 0x999 ⟨1, 1, 1, 1, 1, 1, 1, 1⟩ 8)

/-- R93: a reserved code spells no transaction, and the step that meets it is refused. -/
def Obligations.ReservedCodesAreRefused : Prop :=
  ∀ (s : State) (q : Request) (rest : List Request),
    s.cfg.wellFormed = true → s.requests = q :: rest → 5 ≤ (opField q).toNat →
    decode q = .error (.reservedOp (opField q)) ∧ step s = .refused (.reservedOp (opField q))

/-! ## The step -/

/-- A step runs the decoded request: on a well-formed configuration, when the next request decodes to `i`, the step
is `exec i` on the state with that request taken (R70, R90). -/
def Obligations.StepRunsTheDecodedRequest : Prop :=
  ∀ (s : State) (q : Request) (rest : List Request) (i : Instr),
    s.cfg.wellFormed = true → s.requests = q :: rest → decode q = .ok i →
    step s = exec i { s with requests := rest }

/-- The model's reading of R135 (log entry 4): without a request the block waits, and waiting changes nothing. -/
def Obligations.StepWithoutRequestWaits : Prop :=
  ∀ s : State, s.cfg.wellFormed = true → s.requests = [] → step s = .next s

/-- R9: a step is refused as BAD_CONFIG unless each of the nine checks holds. -/
def Obligations.StepNeedsTheNineChecks : Prop :=
  ∀ s : State, step s = .refused .badConfig ∨ NineChecks s.cfg

/-- No configuration that passes the nine checks and has the table formats is refused as BAD_CONFIG. The formats are
the model's reading of R8, R101 and R102 (log entry 10). -/
def Obligations.CheckedConfigIsNotRefused : Prop :=
  ∀ s : State, NineChecks s.cfg → TableFormats s.cfg → step s ≠ .refused .badConfig

/-- R240: nothing stops the block. Every transaction that is part of the block has a next state, and so has the step
that takes it. -/
def Obligations.EveryAdmittedTransactionCompletes : Prop :=
  (∀ (i : Instr) (s : State), i.wellFormed s.cfg = true →
    ∃ t, exec i s = .next t ∧ SameHost s t) ∧
  (∀ (i : Instr) (s : State) (q : Request) (rest : List Request), s.cfg.wellFormed = true →
    s.requests = q :: rest → decode q = .ok i → i.wellFormed s.cfg = true →
    ∃ t, step s = .next t ∧ t.cfg = s.cfg ∧ t.requests = rest)

/-- R94: the absent port is refused, the present one is not, and the other three transactions are always there. -/
def Obligations.DisabledPortIsRefused : Prop :=
  ∀ (s : State) (b : Byte) (id : Word) (data : CanData) (dlc : Byte),
    (s.cfg.transport = .uart →
      exec (.feedCan id data dlc) s = .refused .portDisabled ∧ ∃ t, exec (.feedByte b) s = .next t) ∧
    (s.cfg.transport = .can →
      exec (.feedByte b) s = .refused .portDisabled ∧ ∃ t, exec (.feedCan id data dlc) s = .next t) ∧
    (∃ t, exec .init s = .next t) ∧ (∃ t, exec .hasNewData s = .next t) ∧ (∃ t, exec .getSnapshot s = .next t)

/-- R37: configuration is fixed for the life of the machine; no step changes it. -/
def Obligations.StepKeepsTheConfiguration : Prop :=
  ∀ s t : State, step s = .next t → t.cfg = s.cfg ∧ (t.requests = s.requests ∨ ∃ q, s.requests = q :: t.requests)

/-- R70: the requests that have reached the block are executed in their order, each on the state the one before it
left: running the machine over the encoded requests is executing the transactions in order. -/
def Obligations.RunOfRequestsIsExecutionInOrder : Prop :=
  ∀ (is : List Instr) (s : State), s.cfg.wellFormed = true → s.requests = is.map encode →
    Host.Core.run Sys2Proof.core is.length s = execAll is { s with requests := [] }

/-- R72, beyond the source (log entry 5): with both ports present, each port's transaction does what it does on a
block that has that port alone. -/
def Obligations.BothPortsActAsEachAlone : Prop :=
  ∀ (s : State), s.cfg.transport = .both →
    (∀ b, ∃ t, exec (.feedByte b) { s with cfg := { s.cfg with transport := .uart } } = .next t ∧
      exec (.feedByte b) s = .next { t with cfg := s.cfg }) ∧
    (∀ id data dlc, ∃ t, exec (.feedCan id data dlc) { s with cfg := { s.cfg with transport := .can } } = .next t ∧
      exec (.feedCan id data dlc) s = .next { t with cfg := s.cfg })

/-! ## INIT and reset -/

/-- R226: INIT gives every state element its reset value, in any state (a partial frame is discarded uncounted), and
a second INIT changes nothing. The configuration and the later requests stand. -/
def Obligations.InitResetsEveryElement : Prop :=
  ∀ s : State, ∃ t, exec .init s = .next t ∧
    t.parserState = .seek0 ∧ t.frameLen = 0 ∧ t.rxCount = 0 ∧ t.crcAcc = 0xFFFF ∧ t.crcRxLo = 0 ∧
    (∀ i, t.bufRead i = 0) ∧ (∀ c, (t.valOf c).toRat = 0 ∧ t.validOf c = false) ∧
    t.connected = false ∧ t.packetCount = 0 ∧ t.errorCount = 0 ∧ t.newData = false ∧
    t.response = .none ∧ SameHost s t ∧ exec .init t = .next t

/-- R270, R39: power-on reset puts every element at its reset value, and is the state INIT produces. The configuration
reset names is the model's choice (log entry 2); no clause rests on its values. -/
def Obligations.PowerOnEqualsInit : Prop :=
  State.reset.parserState = .seek0 ∧ State.reset.frameLen = 0 ∧ State.reset.rxCount = 0 ∧
  State.reset.crcAcc = 0xFFFF ∧ State.reset.crcRxLo = 0 ∧ (∀ i, State.reset.bufRead i = 0) ∧
  (∀ c, (State.reset.valOf c).toRat = 0 ∧ State.reset.validOf c = false) ∧ State.reset.connected = false ∧
  State.reset.packetCount = 0 ∧ State.reset.errorCount = 0 ∧ State.reset.newData = false ∧
  exec .init State.reset = .next State.reset ∧
  ∀ s : State, s.cfg = State.reset.cfg → s.requests = [] → exec .init s = .next State.reset

/-- R221, example W4: the snapshot after INIT: no channel valid, every float channel NaN, the others 0, not connected,
counters 0. -/
def Obligations.SnapshotAfterInitHasNoData : Prop :=
  ∀ s : State, ∃ t r, execAll [.init, .getSnapshot] s = .next t ∧ t.response = .snapshot r ∧
    r.connected = false ∧ r.packetCount = 0 ∧ r.errorCount = 0 ∧
    r.valid = s.cfg.channels.map (fun c => (c.id, false)) ∧
    r.ch = s.cfg.channels.map (fun c => (c.id, if c.kind = .float then .nan else .int 0))

/-! ## HAS_NEW_DATA and GET_SNAPSHOT -/

/-- R223: HAS_NEW_DATA answers the flag and clears it, and nothing else changes. Right after INIT it answers false; after
one or more successful decodes with no HAS_NEW_DATA between them it answers true, and the one after that false. -/
def Obligations.HasNewDataReadsAndClears : Prop :=
  (∀ s : State, ∃ t, exec .hasNewData s = .next t ∧ t.response = .bit s.newData ∧ t.newData = false ∧
    SameParser s t ∧ SameHost s t ∧ SameChannels s t ∧ t.connected = s.connected ∧
    t.packetCount = s.packetCount ∧ t.errorCount = s.errorCount) ∧
  (∀ s : State, ∃ t, execAll [.init, .hasNewData] s = .next t ∧ t.response = .bit false) ∧
  (∀ (is : List Instr) (s t : State), (∀ i ∈ is, i ≠ .init ∧ i ≠ .hasNewData) → execAll is s = .next t →
    0 < successes is s → ∃ u v, exec .hasNewData t = .next u ∧ u.response = .bit true ∧
      exec .hasNewData u = .next v ∧ v.response = .bit false)

/-- R221, R30: GET_SNAPSHOT answers the store part, channel by channel as the kind reads; nothing is written, and a
second GET_SNAPSHOT answers the same record. -/
def Obligations.GetSnapshotAnswersTheStore : Prop :=
  ∀ s : State, ∃ t r, exec .getSnapshot s = .next t ∧ t.response = .snapshot r ∧
    (∀ (n : Nat) (c : Channel), s.cfg.channels[n]? = some c →
      r.valid[n]? = some (c.id, s.validOf c.id) ∧
      (c.kind = .float → s.validOf c.id = false → r.ch[n]? = some (c.id, .nan)) ∧
      (c.kind = .float → s.validOf c.id = true →
        r.ch[n]? = some (c.id, .float (floatRender s.cfg.floatRender (s.valOf c.id).toRat))) ∧
      (c.kind ≠ .float → r.ch[n]? = some (c.id, .int (s.valOf c.id).toInt))) ∧
    r.ch.length = s.cfg.channels.length ∧ r.valid.length = s.cfg.channels.length ∧
    r.connected = s.connected ∧ r.packetCount = s.packetCount ∧ r.errorCount = s.errorCount ∧
    SameParser s t ∧ SameStore s t ∧ SameHost s t ∧ exec .getSnapshot t = .next t

/-- R224: over any transactions without INIT or HAS_NEW_DATA, the next HAS_NEW_DATA answers true exactly when the flag
was up before them or at least one of them decoded successfully; it leaves the flag down. -/
def Obligations.NewDataIsDeliveredOnceCoalesced : Prop :=
  ∀ (is : List Instr) (s t : State), (∀ i ∈ is, i ≠ .init ∧ i ≠ .hasNewData) →
    execAll (is ++ [.hasNewData]) s = .next t →
    t.response = .bit (s.newData || decide (0 < successes is s)) ∧ t.newData = false

/-! ## FEED_BYTE: header, version, length -/

/-- R121, R122, R125: the header search, state by state, with re-evaluation of a mismatching byte; everything but
`parser_state` is left alone. -/
def Obligations.HeaderSearchReevaluates : Prop :=
  ∀ (s : State) (b : Byte), s.cfg.transport.hasUart = true →
    (s.parserState = .seek0 → ∃ t, exec (.feedByte b) s = .next t ∧ SameButParserState s t ∧ t.response = .none ∧
      t.parserState = (if b = 0x55 then .seek1 else .seek0)) ∧
    (∀ (p n : ParserState) (h : Byte),
      (p, h, n) ∈ [(.seek1, 0x00, .seek2), (.seek2, 0xAA, .seek3), (.seek3, 0x00, .seekVersion)] →
      s.parserState = p → ∃ t, exec (.feedByte b) s = .next t ∧ SameButParserState s t ∧ t.response = .none ∧
        t.parserState = (if b = h then n else if b = 0x55 then .seek1 else .seek0))

/-- R123: the version byte must match. Whether a mismatching byte is re-evaluated is the parameter `VERSION_REEVAL`, the
spec's own choice (its decision D7, log entry 12); the statement is for both settings. -/
def Obligations.VersionByteMustMatch : Prop :=
  ∀ (s : State) (b : Byte), s.cfg.transport.hasUart = true → s.parserState = .seekVersion →
    ∃ t, exec (.feedByte b) s = .next t ∧ SameButParserState s t ∧ t.response = .none ∧
      (b = s.cfg.protoVersion → t.parserState = .readLength) ∧
      (b ≠ s.cfg.protoVersion →
        t.parserState = if s.cfg.versionReeval = true ∧ b = 0x55 then .seek1 else .seek0)

/-- R124: a length byte outside `4 .. 48` drops back to `SEEK_0`, even 0x55; nothing else changes. -/
def Obligations.LengthOutOfRangeIsDropped : Prop :=
  ∀ (s : State) (b : Byte), s.cfg.transport.hasUart = true → s.parserState = .readLength →
    (b.toNat < 4 ∨ 48 < b.toNat) →
    ∃ t, exec (.feedByte b) s = .next t ∧ t.parserState = .seek0 ∧ t.response = .none ∧ SameButParserState s t

/-- R126: an accepted length byte opens the frame. -/
def Obligations.AcceptedLengthOpensTheFrame : Prop :=
  ∀ (s : State) (b : Byte), s.cfg.transport.hasUart = true → s.parserState = .readLength → s.buf.wf = true →
    4 ≤ b.toNat → b.toNat ≤ 48 →
    ∃ t, exec (.feedByte b) s = .next t ∧ t.frameLen = b ∧ t.rxCount = 1 ∧ t.parserState = .readBody ∧
      t.crcAcc = crcUpdate s.cfg.crcUpdate 0xFFFF b ∧ t.crcRxLo = s.crcRxLo ∧
      (0 < s.cfg.bufCap → t.bufRead 0 = b) ∧ (s.cfg.bufCap = 0 → t.bufRead 0 = s.bufRead 0) ∧
      (∀ a, a ≠ 0 → t.bufRead a = s.bufRead a) ∧
      SameStore s t ∧ SameHost s t ∧ t.response = .none

/-- R242 (the spec's decision D37, log entry 20): the tag code of the arm a FEED_BYTE or FEED_CAN took. Tags are test
observables, no hardware output. -/
def Obligations.EventTagsNameTheArm : Prop :=
  (∀ (s : State) (b : Byte), s.cfg.transport.hasUart = true →
    ∃ t, exec (.feedByte b) s = .next t ∧
      (s.parserState = .seek0 → t.event.map Event.code = some (if b = 0x55 then 1 else 0)) ∧
      (∀ (p : ParserState) (h : Byte),
        (p, h) ∈ [(.seek1, 0x00), (.seek2, 0xAA), (.seek3, 0x00), (.seekVersion, s.cfg.protoVersion)] →
        s.parserState = p → t.event.map Event.code = some (if b = h then 1 else 2)) ∧
      (s.parserState = .readLength →
        t.event.map Event.code = some (if 4 ≤ b.toNat ∧ b.toNat ≤ 48 then 4 else 3)) ∧
      (s.parserState = .readBody → s.rxCount ≠ s.frameLen → t.event.map Event.code = some 5) ∧
      (s.completes → s.crcMatches b → t.event.map Event.code = some 6) ∧
      (s.completes → ¬ s.crcMatches b → t.event.map Event.code = some 7)) ∧
  (∀ (s : State) (id : Word) (data : CanData) (dlc : Byte), s.cfg.transport.hasCan = true →
    ∃ t, exec (.feedCan id data dlc) s = .next t ∧
      ((∃ E ∈ s.cfg.canTable, E.id = id) → t.event.map Event.code = some 8) ∧
      ((∀ E ∈ s.cfg.canTable, E.id ≠ id) → t.event.map Event.code = some 9))

/-! ## FEED_BYTE: the body -/

/-- R127, R128: a body byte that does not complete the frame, whatever its value: stored at its index if the buffer
reaches there, CRC-covered up to frame byte `frame_len - 2`, captured if it is frame byte `frame_len - 1`. -/
def Obligations.BodyByteIsStoredAndCovered : Prop :=
  ∀ (s : State) (b : Byte), s.cfg.transport.hasUart = true → s.parserState = .readBody → s.buf.wf = true →
    s.rxCount ≠ s.frameLen →
    ∃ t, exec (.feedByte b) s = .next t ∧ t.parserState = .readBody ∧ t.frameLen = s.frameLen ∧
      t.rxCount = s.rxCount + 1 ∧
      ((s.rxCount.toNat : Int) ≤ s.frameLen.toNat - 2 → t.crcAcc = crcUpdate s.cfg.crcUpdate s.crcAcc b) ∧
      (¬ (s.rxCount.toNat : Int) ≤ s.frameLen.toNat - 2 → t.crcAcc = s.crcAcc) ∧
      ((s.rxCount.toNat : Int) = s.frameLen.toNat - 1 → t.crcRxLo = b) ∧
      ((s.rxCount.toNat : Int) ≠ s.frameLen.toNat - 1 → t.crcRxLo = s.crcRxLo) ∧
      (s.rxCount.toNat < s.cfg.bufCap → t.bufRead s.rxCount.toNat = b) ∧
      (∀ a, a ≠ s.rxCount.toNat ∨ s.cfg.bufCap ≤ s.rxCount.toNat → t.bufRead a = s.bufRead a) ∧
      SameStore s t ∧ SameHost s t ∧ t.response = .none

/-- R129, R133: the completing byte with a matching CRC commits: the decoders' channels, fast then slow, the packet
counted modulo 2^32, `connected` and `new_data` set; the parser is back at `SEEK_0`. -/
def Obligations.MatchingCrcCommitsTheFrame : Prop :=
  ∀ (s : State) (b : Byte), Commits b s → s.buf.wf = true →
    ∃ t, exec (.feedByte b) s = .next t ∧ t.parserState = .seek0 ∧ t.rxCount = 0 ∧
      t.packetCount = s.packetCount + 1 ∧ t.connected = true ∧ t.newData = true ∧ t.errorCount = s.errorCount ∧
      t.chans = (slowDecode (fastDecode (s.atCommit b))).chans ∧
      t.frameLen = s.frameLen ∧ t.crcAcc = s.crcAcc ∧ t.crcRxLo = s.crcRxLo ∧
      (s.rxCount.toNat < s.cfg.bufCap → t.bufRead s.rxCount.toNat = b) ∧
      (∀ a, a ≠ s.rxCount.toNat ∨ s.cfg.bufCap ≤ s.rxCount.toNat → t.bufRead a = s.bufRead a) ∧
      SameHost s t ∧ t.response = .none

/-- R129, R134: the completing byte with another CRC counts an error and changes no other part of the store. -/
def Obligations.CrcMismatchOnlyCountsAnError : Prop :=
  ∀ (s : State) (b : Byte), s.cfg.transport.hasUart = true → s.completes → ¬ s.crcMatches b → s.buf.wf = true →
    ∃ t, exec (.feedByte b) s = .next t ∧ t.parserState = .seek0 ∧ t.rxCount = 0 ∧
      t.errorCount = s.errorCount + 1 ∧ t.packetCount = s.packetCount ∧ t.connected = s.connected ∧
      t.newData = s.newData ∧ SameChannels s t ∧
      t.frameLen = s.frameLen ∧ t.crcAcc = s.crcAcc ∧ t.crcRxLo = s.crcRxLo ∧
      (s.rxCount.toNat < s.cfg.bufCap → t.bufRead s.rxCount.toNat = b) ∧
      (∀ a, a ≠ s.rxCount.toNat ∨ s.cfg.bufCap ≤ s.rxCount.toNat → t.bufRead a = s.bufRead a) ∧
      SameHost s t ∧ t.response = .none

/-! ## FEED_BYTE: what a commit decodes -/

/-- R166, R165, R168: on a commit every available fast field gives its channel the field's value and makes it valid
(where two entries name one channel, the later entry does). -/
def Obligations.FastFieldsAreDecoded : Prop :=
  ∀ (s : State) (b : Byte) (before after : List FieldEntry) (e : FieldEntry),
    Commits b s → Inv s → s.cfg.wellFormed = true → s.cfg.fastTable = before ++ e :: after →
    (∀ e' ∈ after, e'.ch ≠ e.ch) → Available s e.off e.width →
    ∃ t, exec (.feedByte b) s = .next t ∧ t.validOf e.ch = true ∧
      t.valOf e.ch = evalTransform e.xf (raw (s.atCommit b).bufRead e.off e.width e.signed)

/-- R170, R165, R168: on a commit whose selector byte is available and below 10, every available field of that slot
gives its channel its value and makes it valid. -/
def Obligations.SelectedSlotIsDecoded : Prop :=
  ∀ (s : State) (b : Byte) (slot before after : List FieldEntry) (e : FieldEntry),
    Commits b s → Inv s → s.cfg.wellFormed = true → Available s s.cfg.selOff 1 →
    ((s.atCommit b).bufRead s.cfg.selOff).toNat < 10 →
    s.cfg.slowTable[((s.atCommit b).bufRead s.cfg.selOff).toNat]? = some slot → slot = before ++ e :: after →
    (∀ e' ∈ after, e'.ch ≠ e.ch) → Available s (s.cfg.selOff + 1 + e.off) e.width →
    ∃ t, exec (.feedByte b) s = .next t ∧ t.validOf e.ch = true ∧
      t.valOf e.ch =
        evalTransform e.xf (raw (s.atCommit b).bufRead (s.cfg.selOff + 1 + e.off) e.width e.signed)

/-- R171: a selector of 10 or more writes no slow channel; the frame still commits, its fast fields decoded. -/
def Obligations.UnknownSelectorStillCommits : Prop :=
  ∀ (s : State) (b : Byte), Commits b s → 10 ≤ ((s.atCommit b).bufRead s.cfg.selOff).toNat →
    ∃ t, exec (.feedByte b) s = .next t ∧ t.packetCount = s.packetCount + 1 ∧ t.connected = true ∧
      t.newData = true ∧
      SameChannels (fastDecode (s.atCommit b)) t ∧
      ∀ c, (∀ e ∈ s.cfg.fastTable, e.ch ≠ c) → t.valOf c = s.valOf c ∧ t.validOf c = s.validOf c

/-- R172: on a block with the byte port alone, the channels of slot `k` change only on a committed frame with selector
`k`, or by INIT. -/
def Obligations.SlotChangesOnlyUnderItsSelector : Prop :=
  ∀ (i : Instr) (s t : State) (k : Nat) (slot : List FieldEntry) (e : FieldEntry),
    s.cfg.transport = .uart → s.cfg.wellFormed = true → s.cfg.slowTable[k]? = some slot → e ∈ slot →
    exec i s = .next t → i ≠ .init → (t.valOf e.ch ≠ s.valOf e.ch ∨ t.validOf e.ch ≠ s.validOf e.ch) →
    ∃ b, i = .feedByte b ∧ Commits b s ∧ ((s.atCommit b).bufRead s.cfg.selOff).toNat = k

/-- R164, R165: on a commit a channel that no available field names keeps its value and its validity. -/
def Obligations.UnavailableFieldsAreNotWritten : Prop :=
  ∀ (s : State) (b : Byte) (c : Nat), Commits b s →
    (∀ e ∈ s.cfg.fastTable, e.ch = c → ¬ Available s e.off e.width) →
    (¬ Available s s.cfg.selOff 1 ∨
      ∀ slot ∈ s.cfg.slowTable, ∀ e ∈ slot, e.ch = c → ¬ Available s (s.cfg.selOff + 1 + e.off) e.width) →
    ∃ t, exec (.feedByte b) s = .next t ∧ t.valOf c = s.valOf c ∧ t.validOf c = s.validOf c

/-- R173: after a committed frame with selector `k`, every field of slot `k` available, the channels of slot `k` are
valid for as long as no INIT comes; so after committed frames with selectors 0 to 9 in any order every slow channel is. -/
def Obligations.CommittedSlotsStayValid : Prop :=
  ∀ (is : List Instr) (s t : State) (k : Nat) (slot : List FieldEntry) (e : FieldEntry),
    Inv s → s.cfg.wellFormed = true → execAll is s = .next t → .init ∉ is → SlotCommitted k is s →
    s.cfg.slowTable[k]? = some slot → e ∈ slot → t.validOf e.ch = true

/-- R167: two commits with the same bytes at every fast offset give every fast channel the same value, whatever else
the two states hold. -/
def Obligations.FastValuesDependOnlyOnTheFastBytes : Prop :=
  ∀ (s s' : State) (b b' : Byte), Commits b s → Commits b' s' → Inv s → Inv s' → s'.cfg = s.cfg →
    s.cfg.wellFormed = true →
    (∀ e ∈ s.cfg.fastTable, Available s e.off e.width ∧ Available s' e.off e.width ∧
      ∀ k, k < e.width → (s'.atCommit b').bufRead (e.off + k) = (s.atCommit b).bufRead (e.off + k)) →
    ∃ t t', exec (.feedByte b) s = .next t ∧ exec (.feedByte b') s' = .next t' ∧
      ∀ e ∈ s.cfg.fastTable, t'.valOf e.ch = t.valOf e.ch ∧ t.validOf e.ch = true ∧ t'.validOf e.ch = true

/-! ## Fields -/

/-- R106, R62: the raw integer of a field, one or two bytes, little-endian, two's complement where signed. -/
def Obligations.RawFieldsAreLittleEndian : Prop :=
  ∀ (src : Nat → Byte) (off : Nat),
    raw src off 1 false = (src off).toNat ∧
    raw src off 1 true = (if 128 ≤ (src off).toNat then ((src off).toNat : Int) - 256 else (src off).toNat) ∧
    raw src off 2 false = (src off).toNat + 256 * (src (off + 1)).toNat ∧
    raw src off 2 true =
      (if 128 ≤ (src (off + 1)).toNat then ((src off).toNat : Int) + 256 * (src (off + 1)).toNat - 65536
       else (src off).toNat + 256 * (src (off + 1)).toNat)

/-- R161: the three transforms, exactly. -/
def Obligations.TransformsAreExact : Prop :=
  (∀ (num : Int) (den : Nat) (add : Rat) (x : Int), 0 < den →
    ∃ v : Rat, evalTransform (.lin num den add) x = .rat v ∧ v * den = x * num + add * den) ∧
  (∀ (k : Nat) (x : Int), ∃ v : Rat, evalTransform (.recip k) x = .rat v ∧
    (x = 0 → v = 0) ∧ (x ≠ 0 → v * x = k)) ∧
  (∀ x : Int, evalTransform .int x = .int x)

/-- R162, R163, R207: the worked values of the four channels the source names. -/
def Obligations.SourceChannelExamples : Prop :=
  (∀ off, evalTransform (rpmEntry off).xf 5000 = .rat 2000 ∧ evalTransform (rpmEntry off).xf 0 = .rat 0 ∧
    evalTransform (rpmEntry off).xf 3 = .rat (10000000 / 3)) ∧
  (∀ off, evalTransform (tpsEntry off).xf 128 = .rat (12800 / 255) ∧ evalTransform (tpsEntry off).xf 255 = .rat 100) ∧
  (∀ off sg, evalTransform (oilTempField off sg).xf 850 = .rat 85 ∧
    evalTransform (oilPressureField off sg).xf 350 = .rat (7 / 2))

/-- R169: the default rendering. A finite rendering is a binary32 value nearest the exact one, with an even fraction
when another value is as near, and never a negative zero; the rendering is not finite only from `2^128 - 2^103` on,
where it is the infinity of the value's sign (IEEE 754, log entry 8). -/
def Obligations.RenderingIsNearestTiesToEven : Prop :=
  ∀ q : Rat,
    (isFinite32 (renderNearestEven q) →
      (∀ w, isFinite32 w → |value32 (renderNearestEven q) - q| ≤ |value32 w - q|) ∧
      (∀ w, isFinite32 w → |value32 (renderNearestEven q) - q| = |value32 w - q| →
        value32 w ≠ value32 (renderNearestEven q) → fracField32 (renderNearestEven q) % 2 = 0) ∧
      (value32 (renderNearestEven q) = 0 → renderNearestEven q = 0)) ∧
    (isFinite32 (renderNearestEven q) ↔ |q| < 2 ^ 128 - 2 ^ 103) ∧
    (2 ^ 128 - 2 ^ 103 ≤ q → renderNearestEven q = 0x7F800000) ∧
    (q ≤ -(2 ^ 128 - 2 ^ 103) → renderNearestEven q = 0xFF800000)

/-! ## FEED_CAN -/

/-- R204, R201: an identifier no entry equals in all 32 bits is answered false, and nothing changes. -/
def Obligations.UnknownCanIdChangesNothing : Prop :=
  ∀ (s : State) (id : Word) (data : CanData) (dlc : Byte), s.cfg.transport.hasCan = true →
    (∀ E ∈ s.cfg.canTable, E.id ≠ id) →
    ∃ t, exec (.feedCan id data dlc) s = .next t ∧ t.response = .bit false ∧
      SameParser s t ∧ SameStore s t ∧ SameHost s t

/-- R200, R203: a message with a table identifier is answered true, sets `connected` and `new_data`, changes neither
counter nor the parser part, and writes no channel but its entry's fields within `dlc`. -/
def Obligations.KnownCanIdIsRecognised : Prop :=
  ∀ (s : State) (E : CanEntry) (data : CanData) (dlc : Byte), s.cfg.transport.hasCan = true →
    s.cfg.wellFormed = true → E ∈ s.cfg.canTable →
    ∃ t, exec (.feedCan E.id data dlc) s = .next t ∧ t.response = .bit true ∧
      t.connected = true ∧ t.newData = true ∧ t.packetCount = s.packetCount ∧ t.errorCount = s.errorCount ∧
      SameParser s t ∧ SameHost s t ∧
      ∀ c, (∀ f ∈ E.fields, f.ch = c → s.cfg.canDlcCheck = true ∧ dlc.toNat < f.off + 2) →
        t.valOf c = s.valOf c ∧ t.validOf c = s.validOf c

/-- R200, R202, R206: every field of the entry within `dlc`, or every field where `CAN_DLC_CHECK` is false, gives its
channel the value of its two little-endian bytes and makes it valid. -/
def Obligations.CanFieldsAreDecoded : Prop :=
  ∀ (s : State) (E : CanEntry) (before after : List CanField) (f : CanField) (data : CanData) (dlc : Byte),
    s.cfg.transport.hasCan = true → Inv s → s.cfg.wellFormed = true → E ∈ s.cfg.canTable →
    E.fields = before ++ f :: after → (∀ f' ∈ after, f'.ch ≠ f.ch) →
    (s.cfg.canDlcCheck = false ∨ f.off + 2 ≤ dlc.toNat) →
    ∃ t, exec (.feedCan E.id data dlc) s = .next t ∧ t.validOf f.ch = true ∧
      t.valOf f.ch = evalTransform f.xf (raw (CanData.byte data) f.off 2 f.signed)

/-- R202: with `CAN_DLC_CHECK` false the length code is ignored, and in a well-formed configuration a code above 8
acts as 8 under either setting. -/
def Obligations.DataLengthCodeAboveEightActsAsEight : Prop :=
  ∀ (s : State) (id : Word) (data : CanData) (dlc dlc' : Byte),
    (s.cfg.canDlcCheck = false → exec (.feedCan id data dlc) s = exec (.feedCan id data dlc') s) ∧
    (s.cfg.wellFormed = true → 8 ≤ dlc.toNat → exec (.feedCan id data dlc) s = exec (.feedCan id data 8) s)

/-- R205: FEED_CAN neither writes the parser part nor reads it: two states that differ in the parser part alone give
the same answer and the same store. -/
def Obligations.FeedCanIsIndependentOfTheFramer : Prop :=
  ∀ (s s' : State) (id : Word) (data : CanData) (dlc : Byte), s.cfg.transport.hasCan = true →
    s' = { s with parserState := s'.parserState, frameLen := s'.frameLen, rxCount := s'.rxCount,
                  crcAcc := s'.crcAcc, crcRxLo := s'.crcRxLo, buf := s'.buf } →
    ∃ t t', exec (.feedCan id data dlc) s = .next t ∧ exec (.feedCan id data dlc) s' = .next t' ∧
      SameParser s t ∧ SameParser s' t' ∧ SameStore t t' ∧ t'.response = t.response

/-! ## Whole-machine rules -/

/-- R36, R31, R32: which transactions touch the flags. A flag rises only in a successful decode, which raises
`connected` and `new_data`; only INIT clears `connected` and `valid`; only INIT and HAS_NEW_DATA clear `new_data`. -/
def Obligations.FlagsAreTouchedOnlyAsTheTableSays : Prop :=
  ∀ (i : Instr) (s t : State), exec i s = .next t →
    (isSuccess t.event = true → t.connected = true ∧ t.newData = true) ∧
    (isSuccess t.event = false → i ≠ .init →
      t.connected = s.connected ∧ SameChannels s t ∧ (i ≠ .hasNewData → t.newData = s.newData)) ∧
    (i ≠ .init → (s.connected = true → t.connected = true) ∧ ∀ c, s.validOf c = true → t.validOf c = true)

/-- R33, R34: the packet counter counts the committed frames and the error counter the frames with another CRC, modulo
2^32; nothing else but INIT changes them. -/
def Obligations.CountersCountFrames : Prop :=
  ∀ (i : Instr) (s t : State), exec i s = .next t → i ≠ .init →
    ((∃ b, i = .feedByte b ∧ s.completes ∧ s.crcMatches b) →
      t.packetCount.toNat = (s.packetCount.toNat + 1) % 2 ^ 32 ∧ t.errorCount = s.errorCount) ∧
    ((∃ b, i = .feedByte b ∧ s.completes ∧ ¬ s.crcMatches b) →
      t.errorCount.toNat = (s.errorCount.toNat + 1) % 2 ^ 32 ∧ t.packetCount = s.packetCount) ∧
    ((¬ ∃ b, i = .feedByte b ∧ s.completes) → t.packetCount = s.packetCount ∧ t.errorCount = s.errorCount)

/-- R138: bytes that reach no completing byte leave the store part alone. -/
def Obligations.PartialInputLeavesTheStore : Prop :=
  ∀ (bs : List Byte) (s : State), s.cfg.transport.hasUart = true → neverCompletes bs s →
    ∃ t, execAll (feedBytes bs) s = .next t ∧ SameStore s t ∧ SameHost s t

/-- R136: from every searching state the header bytes lead to `SEEK_VERSION`; from `READ_LENGTH` they do not, and in
the body they are frame data. -/
def Obligations.HeaderIsFoundFromEverySearchingState : Prop :=
  ∀ s : State, s.cfg.transport.hasUart = true →
    (s.searching → ∃ t, execAll (feedBytes [0x55, 0x00, 0xAA, 0x00]) s = .next t ∧ t.parserState = .seekVersion ∧
      SameButParserState s t) ∧
    (s.parserState = .readLength → ∃ t, execAll (feedBytes [0x55, 0x00, 0xAA, 0x00]) s = .next t ∧
      t.parserState = .seek0) ∧
    (s.parserState = .readBody → s.rxCount.toNat + 4 ≤ s.frameLen.toNat →
      ∃ t, execAll (feedBytes [0x55, 0x00, 0xAA, 0x00]) s = .next t ∧ t.parserState = .readBody ∧
        t.rxCount.toNat = s.rxCount.toNat + 4)

/-- R82, R127 to R130, R133, R134: after a version match, a length byte `L` in range, `L - 2` body bytes and two
trailer bytes are one frame: it commits exactly when the trailer, low byte first, is the CRC of the length byte and
the body, and counts one error otherwise. The buffer then holds the frame's bytes as far as it reaches. -/
def Obligations.FrameCommitsExactlyWhenItsCrcMatches : Prop :=
  ∀ (s : State) (len : Byte) (body : List Byte) (lo hi : Byte),
    s.cfg.transport.hasUart = true → s.buf.wf = true → s.parserState = .readLength →
    4 ≤ len.toNat → len.toNat ≤ 48 → body.length + 2 = len.toNat →
    ∃ t, execAll (feedBytes (len :: body ++ [lo, hi])) s = .next t ∧ t.parserState = .seek0 ∧ t.rxCount = 0 ∧
      SameHost s t ∧
      (∀ (n : Nat) (b : Byte), (len :: body ++ [lo, hi])[n]? = some b → n < s.cfg.bufCap → t.bufRead n = b) ∧
      ((crcOf (crcUpdate s.cfg.crcUpdate) (len :: body)).toNat = lo.toNat + 256 * hi.toNat →
        t.packetCount = s.packetCount + 1 ∧ t.errorCount = s.errorCount ∧ t.connected = true ∧ t.newData = true) ∧
      ((crcOf (crcUpdate s.cfg.crcUpdate) (len :: body)).toNat ≠ lo.toNat + 256 * hi.toNat →
        t.errorCount = s.errorCount + 1 ∧ t.packetCount = s.packetCount ∧ t.connected = s.connected ∧
        t.newData = s.newData ∧ SameChannels s t)

/-- R137: from every searching state, whatever noise led there, a valid frame is decoded exactly once. -/
def Obligations.ValidFrameIsDecodedOnce : Prop :=
  ∀ (s : State) (len : Byte) (body : List Byte),
    s.cfg.transport.hasUart = true → s.searching → 4 ≤ len.toNat → len.toNat ≤ 48 → body.length + 2 = len.toNat →
    ∃ t, execAll (feedFrame (crcUpdate s.cfg.crcUpdate) s.cfg.protoVersion (len :: body)) s = .next t ∧
      t.parserState = .seek0 ∧ t.packetCount = s.packetCount + 1 ∧ t.errorCount = s.errorCount ∧
      t.connected = true ∧ t.newData = true ∧ SameHost s t ∧
      successes (feedFrame (crcUpdate s.cfg.crcUpdate) s.cfg.protoVersion (len :: body)) s = 1

/-- R131 as a hypothesis on the configured update: a frame with one payload bit flipped under its old CRC is always
rejected, and no channel changes. -/
def Obligations.SingleBitErrorIsRejected : Prop :=
  ∀ (s : State) (len : Byte) (body : List Byte) (k j : Nat),
    DetectsSingleBitErrors (crcUpdate s.cfg.crcUpdate) →
    s.cfg.transport.hasUart = true → s.searching → 4 ≤ len.toNat → len.toNat ≤ 48 → body.length + 2 = len.toNat →
    k < body.length → j < 8 →
    ∃ t, execAll (feedFrameBadCrc s.cfg.protoVersion (len :: flipBit body k j)
        (crcOf (crcUpdate s.cfg.crcUpdate) (len :: body))) s = .next t ∧
      t.errorCount = s.errorCount + 1 ∧ t.packetCount = s.packetCount ∧ t.connected = s.connected ∧
      t.newData = s.newData ∧ SameChannels s t

/-- R132: both candidates satisfy the law of R131. -/
def Obligations.CandidatesDetectSingleBitErrors : Prop :=
  DetectsSingleBitErrors crcCandA ∧ DetectsSingleBitErrors crcCandB

/-- R66, R70, R248: the consumer disturbs no decode. Leaving out every HAS_NEW_DATA and GET_SNAPSHOT from a run gives
a run that ends in the same parser part, the same channels, the same counters and the same `connected`. -/
def Obligations.ConsumerNeverDisturbsDecoding : Prop :=
  ∀ (is : List Instr) (s t : State), execAll is s = .next t →
    ∃ t', execAll (is.filter fun i => !isConsumer i) s = .next t' ∧ AgreeButNewData t t'

/-! ## The invariant -/

/-- The invariant holds at reset. The configuration reset names is the model's choice (log entry 2). -/
def Obligations.InvariantHoldsAtReset : Prop := Inv State.reset

/-- Every step keeps the invariant (R24 to R29, R31, R32). -/
def Obligations.EveryStepKeepsTheInvariant : Prop := ∀ s t : State, Inv s → step s = .next t → Inv t
end

