-- ==== Sys2Proof/Laws/State.lean ====
section
/-! SUPPORT. One lemma a field an update, each true by unfolding, so that no later proof unfolds a record update. -/

namespace Sys2Proof.Machine

/-! ### `moveTo` -/

@[simp] theorem State.moveTo_cfg (p : ParserState) (s : State) : (s.moveTo p).cfg = s.cfg := rfl
@[simp] theorem State.moveTo_parserState (p : ParserState) (s : State) : (s.moveTo p).parserState = p := rfl
@[simp] theorem State.moveTo_frameLen (p : ParserState) (s : State) : (s.moveTo p).frameLen = s.frameLen := rfl
@[simp] theorem State.moveTo_rxCount (p : ParserState) (s : State) : (s.moveTo p).rxCount = s.rxCount := rfl
@[simp] theorem State.moveTo_crcAcc (p : ParserState) (s : State) : (s.moveTo p).crcAcc = s.crcAcc := rfl
@[simp] theorem State.moveTo_crcRxLo (p : ParserState) (s : State) : (s.moveTo p).crcRxLo = s.crcRxLo := rfl
@[simp] theorem State.moveTo_buf (p : ParserState) (s : State) : (s.moveTo p).buf = s.buf := rfl
@[simp] theorem State.moveTo_chans (p : ParserState) (s : State) : (s.moveTo p).chans = s.chans := rfl
@[simp] theorem State.moveTo_connected (p : ParserState) (s : State) : (s.moveTo p).connected = s.connected := rfl
@[simp] theorem State.moveTo_packetCount (p : ParserState) (s : State) : (s.moveTo p).packetCount = s.packetCount := rfl
@[simp] theorem State.moveTo_errorCount (p : ParserState) (s : State) : (s.moveTo p).errorCount = s.errorCount := rfl
@[simp] theorem State.moveTo_newData (p : ParserState) (s : State) : (s.moveTo p).newData = s.newData := rfl
@[simp] theorem State.moveTo_requests (p : ParserState) (s : State) : (s.moveTo p).requests = s.requests := rfl
@[simp] theorem State.moveTo_response (p : ParserState) (s : State) : (s.moveTo p).response = s.response := rfl
@[simp] theorem State.moveTo_event (p : ParserState) (s : State) : (s.moveTo p).event = s.event := rfl

/-! ### `answer` -/

@[simp] theorem State.answer_cfg (r : Response) (e : Option Event) (s : State) : (s.answer r e).cfg = s.cfg := rfl
@[simp] theorem State.answer_parserState (r : Response) (e : Option Event) (s : State) : (s.answer r e).parserState = s.parserState := rfl
@[simp] theorem State.answer_frameLen (r : Response) (e : Option Event) (s : State) : (s.answer r e).frameLen = s.frameLen := rfl
@[simp] theorem State.answer_rxCount (r : Response) (e : Option Event) (s : State) : (s.answer r e).rxCount = s.rxCount := rfl
@[simp] theorem State.answer_crcAcc (r : Response) (e : Option Event) (s : State) : (s.answer r e).crcAcc = s.crcAcc := rfl
@[simp] theorem State.answer_crcRxLo (r : Response) (e : Option Event) (s : State) : (s.answer r e).crcRxLo = s.crcRxLo := rfl
@[simp] theorem State.answer_buf (r : Response) (e : Option Event) (s : State) : (s.answer r e).buf = s.buf := rfl
@[simp] theorem State.answer_chans (r : Response) (e : Option Event) (s : State) : (s.answer r e).chans = s.chans := rfl
@[simp] theorem State.answer_connected (r : Response) (e : Option Event) (s : State) : (s.answer r e).connected = s.connected := rfl
@[simp] theorem State.answer_packetCount (r : Response) (e : Option Event) (s : State) : (s.answer r e).packetCount = s.packetCount := rfl
@[simp] theorem State.answer_errorCount (r : Response) (e : Option Event) (s : State) : (s.answer r e).errorCount = s.errorCount := rfl
@[simp] theorem State.answer_newData (r : Response) (e : Option Event) (s : State) : (s.answer r e).newData = s.newData := rfl
@[simp] theorem State.answer_requests (r : Response) (e : Option Event) (s : State) : (s.answer r e).requests = s.requests := rfl
@[simp] theorem State.answer_response (r : Response) (e : Option Event) (s : State) : (s.answer r e).response = r := rfl
@[simp] theorem State.answer_event (r : Response) (e : Option Event) (s : State) : (s.answer r e).event = e := rfl

/-! ### `writeChannel` -/

@[simp] theorem State.writeChannel_cfg (c : Nat) (v : Val) (s : State) : (s.writeChannel c v).cfg = s.cfg := rfl
@[simp] theorem State.writeChannel_parserState (c : Nat) (v : Val) (s : State) : (s.writeChannel c v).parserState = s.parserState := rfl
@[simp] theorem State.writeChannel_frameLen (c : Nat) (v : Val) (s : State) : (s.writeChannel c v).frameLen = s.frameLen := rfl
@[simp] theorem State.writeChannel_rxCount (c : Nat) (v : Val) (s : State) : (s.writeChannel c v).rxCount = s.rxCount := rfl
@[simp] theorem State.writeChannel_crcAcc (c : Nat) (v : Val) (s : State) : (s.writeChannel c v).crcAcc = s.crcAcc := rfl
@[simp] theorem State.writeChannel_crcRxLo (c : Nat) (v : Val) (s : State) : (s.writeChannel c v).crcRxLo = s.crcRxLo := rfl
@[simp] theorem State.writeChannel_buf (c : Nat) (v : Val) (s : State) : (s.writeChannel c v).buf = s.buf := rfl
@[simp] theorem State.writeChannel_chans (c : Nat) (v : Val) (s : State) : (s.writeChannel c v).chans = setReg c v s.chans := rfl
@[simp] theorem State.writeChannel_connected (c : Nat) (v : Val) (s : State) : (s.writeChannel c v).connected = s.connected := rfl
@[simp] theorem State.writeChannel_packetCount (c : Nat) (v : Val) (s : State) : (s.writeChannel c v).packetCount = s.packetCount := rfl
@[simp] theorem State.writeChannel_errorCount (c : Nat) (v : Val) (s : State) : (s.writeChannel c v).errorCount = s.errorCount := rfl
@[simp] theorem State.writeChannel_newData (c : Nat) (v : Val) (s : State) : (s.writeChannel c v).newData = s.newData := rfl
@[simp] theorem State.writeChannel_requests (c : Nat) (v : Val) (s : State) : (s.writeChannel c v).requests = s.requests := rfl
@[simp] theorem State.writeChannel_response (c : Nat) (v : Val) (s : State) : (s.writeChannel c v).response = s.response := rfl
@[simp] theorem State.writeChannel_event (c : Nat) (v : Val) (s : State) : (s.writeChannel c v).event = s.event := rfl

/-! ### `markDecoded` -/

@[simp] theorem State.markDecoded_cfg (s : State) : s.markDecoded.cfg = s.cfg := rfl
@[simp] theorem State.markDecoded_parserState (s : State) : s.markDecoded.parserState = s.parserState := rfl
@[simp] theorem State.markDecoded_frameLen (s : State) : s.markDecoded.frameLen = s.frameLen := rfl
@[simp] theorem State.markDecoded_rxCount (s : State) : s.markDecoded.rxCount = s.rxCount := rfl
@[simp] theorem State.markDecoded_crcAcc (s : State) : s.markDecoded.crcAcc = s.crcAcc := rfl
@[simp] theorem State.markDecoded_crcRxLo (s : State) : s.markDecoded.crcRxLo = s.crcRxLo := rfl
@[simp] theorem State.markDecoded_buf (s : State) : s.markDecoded.buf = s.buf := rfl
@[simp] theorem State.markDecoded_chans (s : State) : s.markDecoded.chans = s.chans := rfl
@[simp] theorem State.markDecoded_connected (s : State) : s.markDecoded.connected = true := rfl
@[simp] theorem State.markDecoded_packetCount (s : State) : s.markDecoded.packetCount = s.packetCount := rfl
@[simp] theorem State.markDecoded_errorCount (s : State) : s.markDecoded.errorCount = s.errorCount := rfl
@[simp] theorem State.markDecoded_newData (s : State) : s.markDecoded.newData = true := rfl
@[simp] theorem State.markDecoded_requests (s : State) : s.markDecoded.requests = s.requests := rfl
@[simp] theorem State.markDecoded_response (s : State) : s.markDecoded.response = s.response := rfl
@[simp] theorem State.markDecoded_event (s : State) : s.markDecoded.event = s.event := rfl

/-! ### `countPacket` -/

@[simp] theorem State.countPacket_cfg (s : State) : s.countPacket.cfg = s.cfg := rfl
@[simp] theorem State.countPacket_parserState (s : State) : s.countPacket.parserState = s.parserState := rfl
@[simp] theorem State.countPacket_frameLen (s : State) : s.countPacket.frameLen = s.frameLen := rfl
@[simp] theorem State.countPacket_rxCount (s : State) : s.countPacket.rxCount = s.rxCount := rfl
@[simp] theorem State.countPacket_crcAcc (s : State) : s.countPacket.crcAcc = s.crcAcc := rfl
@[simp] theorem State.countPacket_crcRxLo (s : State) : s.countPacket.crcRxLo = s.crcRxLo := rfl
@[simp] theorem State.countPacket_buf (s : State) : s.countPacket.buf = s.buf := rfl
@[simp] theorem State.countPacket_chans (s : State) : s.countPacket.chans = s.chans := rfl
@[simp] theorem State.countPacket_connected (s : State) : s.countPacket.connected = s.connected := rfl
@[simp] theorem State.countPacket_packetCount (s : State) : s.countPacket.packetCount = s.packetCount + 1 := rfl
@[simp] theorem State.countPacket_errorCount (s : State) : s.countPacket.errorCount = s.errorCount := rfl
@[simp] theorem State.countPacket_newData (s : State) : s.countPacket.newData = s.newData := rfl
@[simp] theorem State.countPacket_requests (s : State) : s.countPacket.requests = s.requests := rfl
@[simp] theorem State.countPacket_response (s : State) : s.countPacket.response = s.response := rfl
@[simp] theorem State.countPacket_event (s : State) : s.countPacket.event = s.event := rfl

/-! ### `countError` -/

@[simp] theorem State.countError_cfg (s : State) : s.countError.cfg = s.cfg := rfl
@[simp] theorem State.countError_parserState (s : State) : s.countError.parserState = s.parserState := rfl
@[simp] theorem State.countError_frameLen (s : State) : s.countError.frameLen = s.frameLen := rfl
@[simp] theorem State.countError_rxCount (s : State) : s.countError.rxCount = s.rxCount := rfl
@[simp] theorem State.countError_crcAcc (s : State) : s.countError.crcAcc = s.crcAcc := rfl
@[simp] theorem State.countError_crcRxLo (s : State) : s.countError.crcRxLo = s.crcRxLo := rfl
@[simp] theorem State.countError_buf (s : State) : s.countError.buf = s.buf := rfl
@[simp] theorem State.countError_chans (s : State) : s.countError.chans = s.chans := rfl
@[simp] theorem State.countError_connected (s : State) : s.countError.connected = s.connected := rfl
@[simp] theorem State.countError_packetCount (s : State) : s.countError.packetCount = s.packetCount := rfl
@[simp] theorem State.countError_errorCount (s : State) : s.countError.errorCount = s.errorCount + 1 := rfl
@[simp] theorem State.countError_newData (s : State) : s.countError.newData = s.newData := rfl
@[simp] theorem State.countError_requests (s : State) : s.countError.requests = s.requests := rfl
@[simp] theorem State.countError_response (s : State) : s.countError.response = s.response := rfl
@[simp] theorem State.countError_event (s : State) : s.countError.event = s.event := rfl

/-! ### `clearNewData` -/

@[simp] theorem State.clearNewData_cfg (s : State) : s.clearNewData.cfg = s.cfg := rfl
@[simp] theorem State.clearNewData_parserState (s : State) : s.clearNewData.parserState = s.parserState := rfl
@[simp] theorem State.clearNewData_frameLen (s : State) : s.clearNewData.frameLen = s.frameLen := rfl
@[simp] theorem State.clearNewData_rxCount (s : State) : s.clearNewData.rxCount = s.rxCount := rfl
@[simp] theorem State.clearNewData_crcAcc (s : State) : s.clearNewData.crcAcc = s.crcAcc := rfl
@[simp] theorem State.clearNewData_crcRxLo (s : State) : s.clearNewData.crcRxLo = s.crcRxLo := rfl
@[simp] theorem State.clearNewData_buf (s : State) : s.clearNewData.buf = s.buf := rfl
@[simp] theorem State.clearNewData_chans (s : State) : s.clearNewData.chans = s.chans := rfl
@[simp] theorem State.clearNewData_connected (s : State) : s.clearNewData.connected = s.connected := rfl
@[simp] theorem State.clearNewData_packetCount (s : State) : s.clearNewData.packetCount = s.packetCount := rfl
@[simp] theorem State.clearNewData_errorCount (s : State) : s.clearNewData.errorCount = s.errorCount := rfl
@[simp] theorem State.clearNewData_newData (s : State) : s.clearNewData.newData = false := rfl
@[simp] theorem State.clearNewData_requests (s : State) : s.clearNewData.requests = s.requests := rfl
@[simp] theorem State.clearNewData_response (s : State) : s.clearNewData.response = s.response := rfl
@[simp] theorem State.clearNewData_event (s : State) : s.clearNewData.event = s.event := rfl

/-! ### `bufWrite`: it changes `buf` alone -/

@[simp] theorem State.bufWrite_cfg (i : Nat) (v : Byte) (s : State) : (s.bufWrite i v).cfg = s.cfg := by
  unfold State.bufWrite; split <;> rfl
@[simp] theorem State.bufWrite_parserState (i : Nat) (v : Byte) (s : State) : (s.bufWrite i v).parserState = s.parserState := by
  unfold State.bufWrite; split <;> rfl
@[simp] theorem State.bufWrite_frameLen (i : Nat) (v : Byte) (s : State) : (s.bufWrite i v).frameLen = s.frameLen := by
  unfold State.bufWrite; split <;> rfl
@[simp] theorem State.bufWrite_rxCount (i : Nat) (v : Byte) (s : State) : (s.bufWrite i v).rxCount = s.rxCount := by
  unfold State.bufWrite; split <;> rfl
@[simp] theorem State.bufWrite_crcAcc (i : Nat) (v : Byte) (s : State) : (s.bufWrite i v).crcAcc = s.crcAcc := by
  unfold State.bufWrite; split <;> rfl
@[simp] theorem State.bufWrite_crcRxLo (i : Nat) (v : Byte) (s : State) : (s.bufWrite i v).crcRxLo = s.crcRxLo := by
  unfold State.bufWrite; split <;> rfl
theorem State.bufWrite_buf (i : Nat) (v : Byte) (s : State) :
    (s.bufWrite i v).buf = if i < s.cfg.bufCap then s.buf.write i v else s.buf := by
  unfold State.bufWrite; split <;> rfl
@[simp] theorem State.bufWrite_chans (i : Nat) (v : Byte) (s : State) : (s.bufWrite i v).chans = s.chans := by
  unfold State.bufWrite; split <;> rfl
@[simp] theorem State.bufWrite_connected (i : Nat) (v : Byte) (s : State) : (s.bufWrite i v).connected = s.connected := by
  unfold State.bufWrite; split <;> rfl
@[simp] theorem State.bufWrite_packetCount (i : Nat) (v : Byte) (s : State) : (s.bufWrite i v).packetCount = s.packetCount := by
  unfold State.bufWrite; split <;> rfl
@[simp] theorem State.bufWrite_errorCount (i : Nat) (v : Byte) (s : State) : (s.bufWrite i v).errorCount = s.errorCount := by
  unfold State.bufWrite; split <;> rfl
@[simp] theorem State.bufWrite_newData (i : Nat) (v : Byte) (s : State) : (s.bufWrite i v).newData = s.newData := by
  unfold State.bufWrite; split <;> rfl
@[simp] theorem State.bufWrite_requests (i : Nat) (v : Byte) (s : State) : (s.bufWrite i v).requests = s.requests := by
  unfold State.bufWrite; split <;> rfl
@[simp] theorem State.bufWrite_response (i : Nat) (v : Byte) (s : State) : (s.bufWrite i v).response = s.response := by
  unfold State.bufWrite; split <;> rfl
@[simp] theorem State.bufWrite_event (i : Nat) (v : Byte) (s : State) : (s.bufWrite i v).event = s.event := by
  unfold State.bufWrite; split <;> rfl

/-! ### `closeFrame` -/

@[simp] theorem closeFrame_cfg (s : State) : (closeFrame s).cfg = s.cfg := rfl
@[simp] theorem closeFrame_parserState (s : State) : (closeFrame s).parserState = .seek0 := rfl
@[simp] theorem closeFrame_frameLen (s : State) : (closeFrame s).frameLen = s.frameLen := rfl
@[simp] theorem closeFrame_rxCount (s : State) : (closeFrame s).rxCount = 0 := rfl
@[simp] theorem closeFrame_crcAcc (s : State) : (closeFrame s).crcAcc = s.crcAcc := rfl
@[simp] theorem closeFrame_crcRxLo (s : State) : (closeFrame s).crcRxLo = s.crcRxLo := rfl
@[simp] theorem closeFrame_buf (s : State) : (closeFrame s).buf = s.buf := rfl
@[simp] theorem closeFrame_chans (s : State) : (closeFrame s).chans = s.chans := rfl
@[simp] theorem closeFrame_connected (s : State) : (closeFrame s).connected = s.connected := rfl
@[simp] theorem closeFrame_packetCount (s : State) : (closeFrame s).packetCount = s.packetCount := rfl
@[simp] theorem closeFrame_errorCount (s : State) : (closeFrame s).errorCount = s.errorCount := rfl
@[simp] theorem closeFrame_newData (s : State) : (closeFrame s).newData = s.newData := rfl
@[simp] theorem closeFrame_requests (s : State) : (closeFrame s).requests = s.requests := rfl
@[simp] theorem closeFrame_response (s : State) : (closeFrame s).response = s.response := rfl
@[simp] theorem closeFrame_event (s : State) : (closeFrame s).event = s.event := rfl

/-! ### `captureCrcLow` -/

@[simp] theorem captureCrcLow_cfg (b : Byte) (s : State) : (captureCrcLow b s).cfg = s.cfg := rfl
@[simp] theorem captureCrcLow_parserState (b : Byte) (s : State) : (captureCrcLow b s).parserState = s.parserState := rfl
@[simp] theorem captureCrcLow_frameLen (b : Byte) (s : State) : (captureCrcLow b s).frameLen = s.frameLen := rfl
@[simp] theorem captureCrcLow_rxCount (b : Byte) (s : State) : (captureCrcLow b s).rxCount = s.rxCount := rfl
@[simp] theorem captureCrcLow_crcAcc (b : Byte) (s : State) : (captureCrcLow b s).crcAcc = s.crcAcc := rfl
@[simp] theorem captureCrcLow_crcRxLo (b : Byte) (s : State) : (captureCrcLow b s).crcRxLo = b := rfl
@[simp] theorem captureCrcLow_buf (b : Byte) (s : State) : (captureCrcLow b s).buf = s.buf := rfl
@[simp] theorem captureCrcLow_chans (b : Byte) (s : State) : (captureCrcLow b s).chans = s.chans := rfl
@[simp] theorem captureCrcLow_connected (b : Byte) (s : State) : (captureCrcLow b s).connected = s.connected := rfl
@[simp] theorem captureCrcLow_packetCount (b : Byte) (s : State) : (captureCrcLow b s).packetCount = s.packetCount := rfl
@[simp] theorem captureCrcLow_errorCount (b : Byte) (s : State) : (captureCrcLow b s).errorCount = s.errorCount := rfl
@[simp] theorem captureCrcLow_newData (b : Byte) (s : State) : (captureCrcLow b s).newData = s.newData := rfl
@[simp] theorem captureCrcLow_requests (b : Byte) (s : State) : (captureCrcLow b s).requests = s.requests := rfl
@[simp] theorem captureCrcLow_response (b : Byte) (s : State) : (captureCrcLow b s).response = s.response := rfl
@[simp] theorem captureCrcLow_event (b : Byte) (s : State) : (captureCrcLow b s).event = s.event := rfl

/-! ### `initAll` -/

@[simp] theorem initAll_cfg (s : State) : (initAll s).cfg = s.cfg := rfl
@[simp] theorem initAll_parserState (s : State) : (initAll s).parserState = .seek0 := rfl
@[simp] theorem initAll_frameLen (s : State) : (initAll s).frameLen = 0 := rfl
@[simp] theorem initAll_rxCount (s : State) : (initAll s).rxCount = 0 := rfl
@[simp] theorem initAll_crcAcc (s : State) : (initAll s).crcAcc = 0xFFFF := rfl
@[simp] theorem initAll_crcRxLo (s : State) : (initAll s).crcRxLo = 0 := rfl
@[simp] theorem initAll_buf (s : State) : (initAll s).buf = [] := rfl
@[simp] theorem initAll_chans (s : State) : (initAll s).chans = freshChans s.cfg.channels := rfl
@[simp] theorem initAll_connected (s : State) : (initAll s).connected = false := rfl
@[simp] theorem initAll_packetCount (s : State) : (initAll s).packetCount = 0 := rfl
@[simp] theorem initAll_errorCount (s : State) : (initAll s).errorCount = 0 := rfl
@[simp] theorem initAll_newData (s : State) : (initAll s).newData = false := rfl
@[simp] theorem initAll_requests (s : State) : (initAll s).requests = s.requests := rfl
@[simp] theorem initAll_response (s : State) : (initAll s).response = s.response := rfl
@[simp] theorem initAll_event (s : State) : (initAll s).event = s.event := rfl

/-! ### `bodyByte` and `openFrame` -/

@[simp] theorem bodyByte_cfg (b : Byte) (s : State) :
    (bodyByte b s).cfg = s.cfg := by
  simp [bodyByte]
@[simp] theorem bodyByte_parserState (b : Byte) (s : State) :
    (bodyByte b s).parserState = s.parserState := by
  simp [bodyByte]
@[simp] theorem bodyByte_frameLen (b : Byte) (s : State) :
    (bodyByte b s).frameLen = s.frameLen := by
  simp [bodyByte]
@[simp] theorem bodyByte_rxCount (b : Byte) (s : State) :
    (bodyByte b s).rxCount = s.rxCount + 1 := by
  simp [bodyByte]
@[simp] theorem bodyByte_crcAcc (b : Byte) (s : State) :
    (bodyByte b s).crcAcc = if s.rxCount.toNat + 2 ≤ s.frameLen.toNat then crcUpdate s.cfg.crcUpdate s.crcAcc b else s.crcAcc := by
  simp [bodyByte]
@[simp] theorem bodyByte_crcRxLo (b : Byte) (s : State) :
    (bodyByte b s).crcRxLo = s.crcRxLo := by
  simp [bodyByte]
@[simp] theorem bodyByte_chans (b : Byte) (s : State) :
    (bodyByte b s).chans = s.chans := by
  simp [bodyByte]
@[simp] theorem bodyByte_connected (b : Byte) (s : State) :
    (bodyByte b s).connected = s.connected := by
  simp [bodyByte]
@[simp] theorem bodyByte_packetCount (b : Byte) (s : State) :
    (bodyByte b s).packetCount = s.packetCount := by
  simp [bodyByte]
@[simp] theorem bodyByte_errorCount (b : Byte) (s : State) :
    (bodyByte b s).errorCount = s.errorCount := by
  simp [bodyByte]
@[simp] theorem bodyByte_newData (b : Byte) (s : State) :
    (bodyByte b s).newData = s.newData := by
  simp [bodyByte]
@[simp] theorem bodyByte_requests (b : Byte) (s : State) :
    (bodyByte b s).requests = s.requests := by
  simp [bodyByte]
@[simp] theorem bodyByte_response (b : Byte) (s : State) :
    (bodyByte b s).response = s.response := by
  simp [bodyByte]
@[simp] theorem bodyByte_event (b : Byte) (s : State) :
    (bodyByte b s).event = s.event := by
  simp [bodyByte]
@[simp] theorem openFrame_cfg (b : Byte) (s : State) : (openFrame b s).cfg = s.cfg := by
  simp [openFrame]
@[simp] theorem openFrame_parserState (b : Byte) (s : State) : (openFrame b s).parserState = .readBody := by
  simp [openFrame]
@[simp] theorem openFrame_frameLen (b : Byte) (s : State) : (openFrame b s).frameLen = b := by
  simp [openFrame]
@[simp] theorem openFrame_rxCount (b : Byte) (s : State) : (openFrame b s).rxCount = 1 := by
  simp [openFrame]
@[simp] theorem openFrame_crcAcc (b : Byte) (s : State) : (openFrame b s).crcAcc = crcUpdate s.cfg.crcUpdate crcInit b := by
  simp [openFrame]
@[simp] theorem openFrame_crcRxLo (b : Byte) (s : State) : (openFrame b s).crcRxLo = s.crcRxLo := by
  simp [openFrame]
@[simp] theorem openFrame_chans (b : Byte) (s : State) : (openFrame b s).chans = s.chans := by
  simp [openFrame]
@[simp] theorem openFrame_connected (b : Byte) (s : State) : (openFrame b s).connected = s.connected := by
  simp [openFrame]
@[simp] theorem openFrame_packetCount (b : Byte) (s : State) : (openFrame b s).packetCount = s.packetCount := by
  simp [openFrame]
@[simp] theorem openFrame_errorCount (b : Byte) (s : State) : (openFrame b s).errorCount = s.errorCount := by
  simp [openFrame]
@[simp] theorem openFrame_newData (b : Byte) (s : State) : (openFrame b s).newData = s.newData := by
  simp [openFrame]
@[simp] theorem openFrame_requests (b : Byte) (s : State) : (openFrame b s).requests = s.requests := by
  simp [openFrame]
@[simp] theorem openFrame_response (b : Byte) (s : State) : (openFrame b s).response = s.response := by
  simp [openFrame]
@[simp] theorem openFrame_event (b : Byte) (s : State) : (openFrame b s).event = s.event := by
  simp [openFrame]
@[simp] theorem bodyByte_buf (b : Byte) (s : State) : (bodyByte b s).buf = (s.bufWrite s.rxCount.toNat b).buf := rfl
@[simp] theorem openFrame_buf (b : Byte) (s : State) : (openFrame b s).buf = (s.bufWrite 0 b).buf := rfl

/-! ### Reads of the buffer and of the channels depend on their own field alone -/

theorem bufRead_of_buf_eq {s t : State} (h : t.buf = s.buf) (i : Nat) : t.bufRead i = s.bufRead i := by
  simp only [State.bufRead, h]

theorem valOf_of_chans_eq {s t : State} (h : t.chans = s.chans) (c : Nat) : t.valOf c = s.valOf c := by
  simp only [State.valOf, h]

theorem validOf_of_chans_eq {s t : State} (h : t.chans = s.chans) (c : Nat) : t.validOf c = s.validOf c := by
  simp only [State.validOf, h]

theorem sameChannels_of_chans_eq {s t : State} (h : t.chans = s.chans) : SameChannels s t :=
  ⟨valOf_of_chans_eq h, validOf_of_chans_eq h⟩

@[simp] theorem State.moveTo_bufRead (p : ParserState) (s : State) (i : Nat) : (s.moveTo p).bufRead i = s.bufRead i := rfl
@[simp] theorem State.answer_bufRead (r : Response) (e : Option Event) (s : State) (i : Nat) : (s.answer r e).bufRead i = s.bufRead i := rfl
@[simp] theorem State.writeChannel_bufRead (c : Nat) (v : Val) (s : State) (i : Nat) : (s.writeChannel c v).bufRead i = s.bufRead i := rfl
@[simp] theorem State.markDecoded_bufRead (s : State) (i : Nat) : s.markDecoded.bufRead i = s.bufRead i := rfl
@[simp] theorem State.countPacket_bufRead (s : State) (i : Nat) : s.countPacket.bufRead i = s.bufRead i := rfl
@[simp] theorem State.countError_bufRead (s : State) (i : Nat) : s.countError.bufRead i = s.bufRead i := rfl
@[simp] theorem State.clearNewData_bufRead (s : State) (i : Nat) : s.clearNewData.bufRead i = s.bufRead i := rfl
@[simp] theorem closeFrame_bufRead (s : State) (i : Nat) : (closeFrame s).bufRead i = s.bufRead i := rfl
@[simp] theorem captureCrcLow_bufRead (b : Byte) (s : State) (i : Nat) : (captureCrcLow b s).bufRead i = s.bufRead i := rfl
@[simp] theorem State.moveTo_valOf (p : ParserState) (s : State) (i : Nat) : (s.moveTo p).valOf i = s.valOf i := rfl
@[simp] theorem State.answer_valOf (r : Response) (e : Option Event) (s : State) (i : Nat) : (s.answer r e).valOf i = s.valOf i := rfl
@[simp] theorem State.markDecoded_valOf (s : State) (i : Nat) : s.markDecoded.valOf i = s.valOf i := rfl
@[simp] theorem State.countPacket_valOf (s : State) (i : Nat) : s.countPacket.valOf i = s.valOf i := rfl
@[simp] theorem State.countError_valOf (s : State) (i : Nat) : s.countError.valOf i = s.valOf i := rfl
@[simp] theorem State.clearNewData_valOf (s : State) (i : Nat) : s.clearNewData.valOf i = s.valOf i := rfl
@[simp] theorem closeFrame_valOf (s : State) (i : Nat) : (closeFrame s).valOf i = s.valOf i := rfl
@[simp] theorem captureCrcLow_valOf (b : Byte) (s : State) (i : Nat) : (captureCrcLow b s).valOf i = s.valOf i := rfl
@[simp] theorem State.moveTo_validOf (p : ParserState) (s : State) (i : Nat) : (s.moveTo p).validOf i = s.validOf i := rfl
@[simp] theorem State.answer_validOf (r : Response) (e : Option Event) (s : State) (i : Nat) : (s.answer r e).validOf i = s.validOf i := rfl
@[simp] theorem State.markDecoded_validOf (s : State) (i : Nat) : s.markDecoded.validOf i = s.validOf i := rfl
@[simp] theorem State.countPacket_validOf (s : State) (i : Nat) : s.countPacket.validOf i = s.validOf i := rfl
@[simp] theorem State.countError_validOf (s : State) (i : Nat) : s.countError.validOf i = s.validOf i := rfl
@[simp] theorem State.clearNewData_validOf (s : State) (i : Nat) : s.clearNewData.validOf i = s.validOf i := rfl
@[simp] theorem closeFrame_validOf (s : State) (i : Nat) : (closeFrame s).validOf i = s.validOf i := rfl
@[simp] theorem captureCrcLow_validOf (b : Byte) (s : State) (i : Nat) : (captureCrcLow b s).validOf i = s.validOf i := rfl
@[simp] theorem State.bufWrite_valOf (k : Nat) (v : Byte) (s : State) (i : Nat) : (s.bufWrite k v).valOf i = s.valOf i := by
  simp [State.valOf]
@[simp] theorem bodyByte_valOf (b : Byte) (s : State) (i : Nat) : (bodyByte b s).valOf i = s.valOf i := by
  simp [State.valOf]
@[simp] theorem openFrame_valOf (b : Byte) (s : State) (i : Nat) : (openFrame b s).valOf i = s.valOf i := by
  simp [State.valOf]
@[simp] theorem State.bufWrite_validOf (k : Nat) (v : Byte) (s : State) (i : Nat) : (s.bufWrite k v).validOf i = s.validOf i := by
  simp [State.validOf]
@[simp] theorem bodyByte_validOf (b : Byte) (s : State) (i : Nat) : (bodyByte b s).validOf i = s.validOf i := by
  simp [State.validOf]
@[simp] theorem openFrame_validOf (b : Byte) (s : State) (i : Nat) : (openFrame b s).validOf i = s.validOf i := by
  simp [State.validOf]

end Sys2Proof.Machine
end

