-- ==== Sys2Proof/Laws/Channels.lean ====
section
/-! SUPPORT. The laws of the channel registers and of the decoders that write them: a write reaches its own channel
alone, and decoding a table touches nothing but the channels it names. -/

namespace Sys2Proof.Machine

/-! ## One channel write (R168) -/

theorem findReg_setReg (c d : Nat) (v : Val) (regs : List ChanReg) :
    findReg (setReg c v regs) d =
      if d = c then (findReg regs d).map (fun r => { r with val := v, valid := true }) else findReg regs d := by
  induction regs with
  | nil => simp [findReg, setReg]
  | cons r rest ih =>
    simp only [setReg, List.map_cons, findReg] at ih ⊢
    by_cases hr : r.ch = c <;> by_cases hrd : r.ch = d
    · simp [hr, hrd.symm.trans hr]
    · have hdc : ¬ d = c := fun h => hrd (hr.trans h.symm)
      simp only [hr, if_true, if_neg (fun h => hdc h.symm : ¬ c = d), hdc, if_false] at ih ⊢
      exact ih
    · have hdc : ¬ d = c := fun h => hr (hrd.trans h)
      simp [hrd, hdc]
    · simp only [hr, hrd, if_false]
      exact ih

theorem setReg_ids (c : Nat) (v : Val) (regs : List ChanReg) :
    (setReg c v regs).map (·.ch) = regs.map (·.ch) := by
  induction regs with
  | nil => rfl
  | cons r rest ih =>
    simp only [setReg, List.map_cons] at ih ⊢
    rw [ih]
    split <;> rfl

/-- Does the register file have a register for this channel? -/
def hasReg (regs : List ChanReg) (c : Nat) : Prop := c ∈ regs.map (·.ch)

theorem findReg_isSome {regs : List ChanReg} {c : Nat} : (findReg regs c).isSome = true ↔ hasReg regs c := by
  unfold hasReg
  induction regs with
  | nil => simp [findReg]
  | cons r rest ih =>
    by_cases h : r.ch = c
    · simp [findReg, h]
    · simp only [findReg, h, if_false, List.map_cons, List.mem_cons, ih]
      exact ⟨Or.inr, fun h' => h'.resolve_left fun e => h e.symm⟩

/-- A write gives its channel the value, where the block has that channel. -/
theorem State.writeChannel_valOf_self {s : State} {c : Nat} (h : hasReg s.chans c) (v : Val) :
    (s.writeChannel c v).valOf c = v := by
  obtain ⟨r, hr⟩ := Option.isSome_iff_exists.mp (findReg_isSome.mpr h)
  simp [State.valOf, findReg_setReg, hr]

/-- A write makes its channel valid (R168). -/
theorem State.writeChannel_validOf_self {s : State} {c : Nat} (h : hasReg s.chans c) (v : Val) :
    (s.writeChannel c v).validOf c = true := by
  obtain ⟨r, hr⟩ := Option.isSome_iff_exists.mp (findReg_isSome.mpr h)
  simp [State.validOf, findReg_setReg, hr]

/-- A write leaves every other channel alone (R31). -/
theorem State.writeChannel_valOf_other {s : State} {c d : Nat} (h : d ≠ c) (v : Val) :
    (s.writeChannel c v).valOf d = s.valOf d := by
  simp [State.valOf, findReg_setReg, h]

theorem State.writeChannel_validOf_other {s : State} {c d : Nat} (h : d ≠ c) (v : Val) :
    (s.writeChannel c v).validOf d = s.validOf d := by
  simp [State.validOf, findReg_setReg, h]

/-- A write never takes validity away (R31). -/
theorem State.writeChannel_validOf_mono {s : State} {d : Nat} (c : Nat) (v : Val) (h : s.validOf d = true) :
    (s.writeChannel c v).validOf d = true := by
  by_cases hd : d = c
  · have : hasReg s.chans d := by
      rw [← findReg_isSome]
      simp only [State.validOf] at h
      split at h
      · rename_i hr; simp [hr]
      · cases h
    subst hd
    exact State.writeChannel_validOf_self this v
  · rw [State.writeChannel_validOf_other hd]; exact h

/-! ## What a chain of channel writes leaves alone -/

/-- `t` is `s` but for its channel registers, which are the same registers: what every decoder does. -/
structure OnlyChannels (s t : State) : Prop where
  rest : t = { s with chans := t.chans }
  ids : t.chans.map (·.ch) = s.chans.map (·.ch)
  valid : ∀ c, s.validOf c = true → t.validOf c = true

theorem OnlyChannels.refl (s : State) : OnlyChannels s s := ⟨rfl, rfl, fun _ h => h⟩

theorem OnlyChannels.trans {s t u : State} (h : OnlyChannels s t) (h' : OnlyChannels t u) : OnlyChannels s u := by
  refine ⟨?_, h'.ids.trans h.ids, fun c hc => h'.valid c (h.valid c hc)⟩
  have h1 := h.rest
  have h2 := h'.rest
  rw [h1] at h2
  exact h2

theorem OnlyChannels.writeChannel (s : State) (c : Nat) (v : Val) : OnlyChannels s (s.writeChannel c v) :=
  ⟨rfl, setReg_ids c v s.chans, fun _ h => State.writeChannel_validOf_mono c v h⟩

section
variable {s t : State} (h : OnlyChannels s t)
include h
theorem OnlyChannels.cfg : t.cfg = s.cfg := by rw [h.rest]
theorem OnlyChannels.parserState : t.parserState = s.parserState := by rw [h.rest]
theorem OnlyChannels.frameLen : t.frameLen = s.frameLen := by rw [h.rest]
theorem OnlyChannels.rxCount : t.rxCount = s.rxCount := by rw [h.rest]
theorem OnlyChannels.crcAcc : t.crcAcc = s.crcAcc := by rw [h.rest]
theorem OnlyChannels.crcRxLo : t.crcRxLo = s.crcRxLo := by rw [h.rest]
theorem OnlyChannels.buf : t.buf = s.buf := by rw [h.rest]
theorem OnlyChannels.connected : t.connected = s.connected := by rw [h.rest]
theorem OnlyChannels.packetCount : t.packetCount = s.packetCount := by rw [h.rest]
theorem OnlyChannels.errorCount : t.errorCount = s.errorCount := by rw [h.rest]
theorem OnlyChannels.newData : t.newData = s.newData := by rw [h.rest]
theorem OnlyChannels.requests : t.requests = s.requests := by rw [h.rest]
theorem OnlyChannels.hasReg (c : Nat) : hasReg t.chans c ↔ hasReg s.chans c := by
  unfold Machine.hasReg; rw [h.ids]
theorem OnlyChannels.bufRead : t.bufRead = s.bufRead := by
  funext i; exact bufRead_of_buf_eq h.buf i
end

/-! ## The frame decoders (R165, R166, R170) -/

/-- An entry is applied in this state (R164, R165). -/
def applies (s : State) (base : Nat) (e : FieldEntry) : Bool :=
  fieldAvailable s.cfg.shortFrame s.frameLen (base + e.off) e.width

/-- The value an entry decodes to in this state (R165). -/
def fieldValue (s : State) (base : Nat) (e : FieldEntry) : Val :=
  evalTransform e.xf (raw s.bufRead (base + e.off) e.width e.signed)

theorem decodeField_eq (e : FieldEntry) (base : Nat) (s : State) :
    decodeField e (base + e.off) s = if applies s base e then s.writeChannel e.ch (fieldValue s base e) else s := rfl

theorem decodeField_only (e : FieldEntry) (a : Nat) (s : State) : OnlyChannels s (decodeField e a s) := by
  unfold decodeField
  split
  · exact OnlyChannels.writeChannel s _ _
  · exact OnlyChannels.refl s

theorem decodeTable_only (base : Nat) (es : List FieldEntry) (s : State) : OnlyChannels s (decodeTable base es s) := by
  induction es generalizing s with
  | nil => exact OnlyChannels.refl s
  | cons e rest ih => exact (decodeField_only e _ s).trans (ih _)

theorem fastDecode_only (s : State) : OnlyChannels s (fastDecode s) := decodeTable_only 0 _ s

theorem slowDecode_only (s : State) : OnlyChannels s (slowDecode s) := decodeTable_only _ _ s

theorem applies_of_only {s t : State} (h : OnlyChannels s t) : applies t = applies s := by
  funext base e; simp only [applies, h.cfg, h.frameLen]

theorem fieldValue_of_only {s t : State} (h : OnlyChannels s t) : fieldValue t = fieldValue s := by
  funext base e; simp only [fieldValue, h.bufRead]

theorem slowEntries_of_only {s t : State} (h : OnlyChannels s t) : slowEntries t = slowEntries s := by
  simp only [slowEntries, h.cfg, h.frameLen, h.bufRead]

/-- A channel none of the applied entries names keeps its value and validity (R31). -/
theorem decodeTable_other (base : Nat) (es : List FieldEntry) (s : State) (c : Nat)
    (h : ∀ e ∈ es, e.ch = c → applies s base e = false) :
    (decodeTable base es s).valOf c = s.valOf c ∧ (decodeTable base es s).validOf c = s.validOf c := by
  induction es generalizing s with
  | nil => exact ⟨rfl, rfl⟩
  | cons e rest ih =>
    have honly := decodeField_only e (base + e.off) s
    have hrest := ih (decodeField e (base + e.off) s) (by
      intro e' he' hc
      rw [applies_of_only honly]
      exact h e' (List.mem_cons_of_mem _ he') hc)
    simp only [decodeTable]
    rw [hrest.1, hrest.2, decodeField_eq]
    by_cases ha : applies s base e = true
    · have hne : c ≠ e.ch := fun hc => by simp [h e (List.mem_cons_self ..) hc.symm] at ha
      simp only [ha, if_true]
      exact ⟨State.writeChannel_valOf_other hne _, State.writeChannel_validOf_other hne _⟩
    · simp [ha]

/-- The last applied entry that names a channel gives it its value (R168, spec decision D38). -/
theorem decodeTable_last (base : Nat) (before : List FieldEntry) (e : FieldEntry) (after : List FieldEntry) (s : State)
    (hreg : hasReg s.chans e.ch) (ha : applies s base e = true)
    (hlast : ∀ e' ∈ after, e'.ch = e.ch → applies s base e' = false) :
    (decodeTable base (before ++ e :: after) s).valOf e.ch = fieldValue s base e ∧
    (decodeTable base (before ++ e :: after) s).validOf e.ch = true := by
  induction before generalizing s with
  | nil =>
    have honly := decodeField_only e (base + e.off) s
    have hrest := decodeTable_other base after (decodeField e (base + e.off) s) e.ch (by
      intro e' he' hc
      rw [applies_of_only honly]
      exact hlast e' he' hc)
    simp only [List.nil_append, decodeTable]
    rw [hrest.1, hrest.2, decodeField_eq, ha, if_pos rfl]
    exact ⟨State.writeChannel_valOf_self hreg _, State.writeChannel_validOf_self hreg _⟩
  | cons d rest ih =>
    have honly := decodeField_only d (base + d.off) s
    have := ih (decodeField d (base + d.off) s) ((honly.hasReg _).mpr hreg) (by rw [applies_of_only honly]; exact ha)
      (by intro e' he' hc; rw [applies_of_only honly]; exact hlast e' he' hc)
    rw [fieldValue_of_only honly] at this
    exact this

/-! ## The CAN decoder (R200) -/

theorem decodeCanField_only (data : CanData) (dlc : Byte) (f : CanField) (s : State) :
    OnlyChannels s (decodeCanField data dlc f s) := by
  unfold decodeCanField
  split
  · exact OnlyChannels.writeChannel s _ _
  · exact OnlyChannels.refl s

theorem decodeCanFields_only (data : CanData) (dlc : Byte) (fs : List CanField) (s : State) :
    OnlyChannels s (decodeCanFields data dlc fs s) := by
  induction fs generalizing s with
  | nil => exact OnlyChannels.refl s
  | cons f rest ih => exact (decodeCanField_only data dlc f s).trans (ih _)

/-- The value a CAN field decodes to (R106, R200). -/
def canFieldValue (data : CanData) (f : CanField) : Val :=
  evalTransform f.xf (raw (CanData.byte data) f.off 2 f.signed)

theorem decodeCanFields_other (data : CanData) (dlc : Byte) (fs : List CanField) (s : State) (c : Nat)
    (h : ∀ f ∈ fs, f.ch = c → canFieldWithin s.cfg.canDlcCheck dlc f = false) :
    (decodeCanFields data dlc fs s).valOf c = s.valOf c ∧ (decodeCanFields data dlc fs s).validOf c = s.validOf c := by
  induction fs generalizing s with
  | nil => exact ⟨rfl, rfl⟩
  | cons f rest ih =>
    have honly := decodeCanField_only data dlc f s
    have hrest := ih (decodeCanField data dlc f s) (by
      intro f' hf' hc
      rw [honly.cfg]
      exact h f' (List.mem_cons_of_mem _ hf') hc)
    simp only [decodeCanFields]
    rw [hrest.1, hrest.2]
    unfold decodeCanField
    by_cases hw : canFieldWithin s.cfg.canDlcCheck dlc f = true
    · have hne : c ≠ f.ch := fun hc => by simp [h f (List.mem_cons_self ..) hc.symm] at hw
      simp only [hw, if_true]
      exact ⟨State.writeChannel_valOf_other hne _, State.writeChannel_validOf_other hne _⟩
    · simp [hw]

theorem decodeCanFields_last (data : CanData) (dlc : Byte) (before : List CanField) (f : CanField)
    (after : List CanField) (s : State) (hreg : hasReg s.chans f.ch)
    (hw : canFieldWithin s.cfg.canDlcCheck dlc f = true)
    (hlast : ∀ f' ∈ after, f'.ch = f.ch → canFieldWithin s.cfg.canDlcCheck dlc f' = false) :
    (decodeCanFields data dlc (before ++ f :: after) s).valOf f.ch = canFieldValue data f ∧
    (decodeCanFields data dlc (before ++ f :: after) s).validOf f.ch = true := by
  induction before generalizing s with
  | nil =>
    have honly := decodeCanField_only data dlc f s
    have hrest := decodeCanFields_other data dlc after (decodeCanField data dlc f s) f.ch (by
      intro f' hf' hc
      rw [honly.cfg]
      exact hlast f' hf' hc)
    simp only [List.nil_append, decodeCanFields]
    rw [hrest.1, hrest.2, decodeCanField, hw, if_pos rfl]
    exact ⟨State.writeChannel_valOf_self hreg _, State.writeChannel_validOf_self hreg _⟩
  | cons d rest ih =>
    have honly := decodeCanField_only data dlc d s
    exact ih (decodeCanField data dlc d s) ((honly.hasReg _).mpr hreg) (by rw [honly.cfg]; exact hw)
      (by intro f' hf' hc; rw [honly.cfg]; exact hlast f' hf' hc)

/-! ## The register file at reset -/

theorem freshChans_ids (cs : List Channel) : (freshChans cs).map (·.ch) = cs.map (·.id) := by
  simp [freshChans, Function.comp_def]

/-- Every register of a fresh file is one of its channels', with that channel's reset value. -/
theorem findReg_fresh {cs : List Channel} {c : Nat} {r : ChanReg} (h : findReg (freshChans cs) c = some r) :
    ∃ k ∈ cs, k.id = c ∧ r = { ch := k.id, val := Val.zero k.kind, valid := false } := by
  induction cs with
  | nil => cases h
  | cons k rest ih =>
    simp only [freshChans, List.map_cons, findReg] at h ih
    by_cases hk : k.id = c
    · rw [if_pos hk] at h
      exact ⟨k, List.mem_cons_self .., hk, (Option.some.inj h).symm⟩
    · rw [if_neg hk] at h
      obtain ⟨k', hk', h'⟩ := ih h
      exact ⟨k', List.mem_cons_of_mem _ hk', h'⟩

/-- No channel of a fresh file is valid (R39). -/
theorem validOf_fresh {s : State} {cs : List Channel} (h : s.chans = freshChans cs) (c : Nat) :
    s.validOf c = false := by
  simp only [State.validOf, h]
  cases hr : findReg (freshChans cs) c with
  | none => rfl
  | some r =>
    obtain ⟨k, _, _, rfl⟩ := findReg_fresh hr
    rfl

theorem noRepeats_cons {α : Type} [DecidableEq α] {a : α} {rest : List α} :
    noRepeats (a :: rest) = true ↔ a ∉ rest ∧ noRepeats rest = true := by
  simp [noRepeats]

/-- Where ids do not repeat, an id names one channel. -/
theorem eq_of_id_eq {cs : List Channel} (h : noRepeats (cs.map (·.id)) = true) {k c : Channel} (hk : k ∈ cs)
    (hc : c ∈ cs) (hid : k.id = c.id) : k = c := by
  induction cs with
  | nil => cases hk
  | cons d rest ih =>
    rw [List.map_cons, noRepeats_cons] at h
    rcases List.mem_cons.mp hk with rfl | hk'
    · rcases List.mem_cons.mp hc with rfl | hc'
      · rfl
      · exact absurd (hid ▸ List.mem_map_of_mem hc') h.1
    · rcases List.mem_cons.mp hc with rfl | hc'
      · exact absurd (hid ▸ List.mem_map_of_mem hk') h.1
      · exact ih h.2 hk' hc'

/-- A fresh register file holds each channel's reset value (R39). -/
theorem valOf_fresh {s : State} {cs : List Channel} (h : s.chans = freshChans cs)
    (hids : noRepeats (cs.map (·.id)) = true) {c : Channel} (hc : c ∈ cs) : s.valOf c.id = Val.zero c.kind := by
  have hsome : hasReg (freshChans cs) c.id := by
    unfold hasReg; rw [freshChans_ids]; exact List.mem_map_of_mem hc
  obtain ⟨r, hr⟩ := Option.isSome_iff_exists.mp (findReg_isSome.mpr hsome)
  obtain ⟨k, hk, hkc, rfl⟩ := findReg_fresh hr
  simp [State.valOf, h, hr, eq_of_id_eq hids hk hc hkc]

end Sys2Proof.Machine
end

