-- ==== Sys2Proof/Laws/ConfigChecks.lean ====
section
/-! SUPPORT. What the Bool checks of a configuration (R9) say. -/

namespace Sys2Proof.Machine

/-- `noRepeats` says that the list has no repeats. -/
theorem noRepeats_iff {α} [DecidableEq α] (l : List α) : noRepeats l = true ↔ l.Nodup := by
  induction l with
  | nil => simp [noRepeats]
  | cons a l ih => rw [noRepeats_cons, ih, List.nodup_cons]

/-- A table has a field exactly when it is in `allFields`. -/
theorem hasField_iff (c : Config) (ch : Nat) (sg : Bool) (xf : Transform) : HasField c ch sg xf ↔ (ch, sg, xf) ∈ c.allFields := by
  simp only [HasField, Config.allFields, List.mem_append, List.mem_map, List.mem_flatten, List.mem_flatMap, Prod.mk.injEq, or_assoc]
  constructor
  · rintro (⟨e, he, h⟩ | ⟨sl, hsl, e, he, h⟩ | ⟨E, hE, f, hf, h⟩)
    · exact .inl ⟨e, he, h⟩
    · exact .inr (.inl ⟨e, ⟨sl, hsl, he⟩, h⟩)
    · exact .inr (.inr ⟨f, ⟨E, hE, hf⟩, h⟩)
  · rintro (⟨e, he, h⟩ | ⟨e, ⟨sl, hsl, he⟩, h⟩ | ⟨f, ⟨E, hE, hf⟩, h⟩)
    · exact .inl ⟨e, he, h⟩
    · exact .inr (.inl ⟨sl, hsl, e, he, h⟩)
    · exact .inr (.inr ⟨E, hE, f, hf, h⟩)

/-- R9 check 5 as a statement about the slots' entries. -/
theorem pairwiseDisjoint_iff (l : List (List FieldEntry)) : pairwiseDisjoint (l.map writtenBy) = true ↔ l.Pairwise fun slot slot' => ∀ e ∈ slot, ∀ e' ∈ slot', e.ch ≠ e'.ch := by
  induction l with
  | nil => simp [pairwiseDisjoint]
  | cons a l ih =>
    simp only [List.map_cons, pairwiseDisjoint, Bool.and_eq_true, ih, List.pairwise_cons]
    apply and_congr_left'
    simp [disjointChans, writtenBy]
    constructor
    · intro h s hs e he e' he' hee
      exact h s hs e he e' he' hee.symm
    · intro h s hs e he e' he' hee
      exact h s hs e he e' he' hee.symm

/-- `kindOf` finds a channel of the list. -/
theorem kindOf_some (c : Config) (ch : Nat) (k : ChanKind) (h : c.kindOf ch = some k) : ∃ x ∈ c.channels, x.id = ch ∧ x.kind = k := by
  simp only [Config.kindOf, Option.map_eq_some_iff] at h
  obtain ⟨x, hx, hk⟩ := h
  exact ⟨x, List.mem_of_find?_eq_some hx, by simpa using List.find?_some hx, hk⟩

/-- The CRC comparison of R129 as the two words do it and as `State.crcMatches` states it. -/
theorem crcMatches_iff (b : Byte) (s : State) : s.crcMatches b ↔ s.crcAcc = le16 s.crcRxLo b := by
  unfold State.crcMatches le16
  rw [← BitVec.toNat_inj, BitVec.toNat_append, Nat.shiftLeft_eq, Nat.mul_comm b.toNat,
    ← Nat.two_pow_add_eq_or_of_lt s.crcRxLo.isLt]

end Sys2Proof.Machine
end

