-- ==== Sys2Proof/Laws/Crc.lean ====
section
/-! SUPPORT. The law of the CRC update (R131): what an update needs to satisfy it. -/

namespace Sys2Proof.Machine

/-- An update that loses nothing of either argument detects every single-bit error (R131): two runs of it that differ
in one byte stay apart to the end. -/
theorem detectsSingleBitErrors_of_injective (u : Half → Byte → Half) (hc : ∀ d c c', u c d = u c' d → c = c') (hd : ∀ c d d', u c d = u c d' → d = d') : DetectsSingleBitErrors u := by
  intro len body k j _ _ _ hk hj
  have fold_inj : ∀ (l : List Byte) c c', l.foldl u c = l.foldl u c' → c = c' := by
    intro l; induction l with
    | nil => exact fun _ _ h => h
    | cons a l ih => exact fun c c' h => hc _ _ _ (ih _ _ h)
  have key : ∀ (l : List Byte) (k : Nat) (c : Half), k < l.length → l.foldl u c ≠ (flipBit l k j).foldl u c := by
    intro l
    induction l with
    | nil => intro k c h; simp at h
    | cons a l ih =>
      intro k c h
      cases k with
      | zero =>
        simp only [flipBit, List.modify_zero_cons, List.foldl_cons]
        intro he
        have := hd _ _ _ (fold_inj _ _ _ he)
        have h2 : BitVec.twoPow 8 j = 0 := by
          have : a ^^^ (a ^^^ BitVec.twoPow 8 j) = a ^^^ a := by rw [← this]
          rw [← BitVec.xor_assoc, BitVec.xor_self, BitVec.zero_xor] at this
          simpa using this
        have : (BitVec.twoPow 8 j).getLsbD j = true := by simp [hj]
        rw [h2] at this; simp at this
      | succ k =>
        simp only [flipBit, List.modify_succ_cons, List.foldl_cons]
        exact ih k _ (by simpa using h)
  simp only [crcOf, List.foldl_cons]
  exact key body k _ hk

end Sys2Proof.Machine
end

