-- ==== Sys2Proof/Laws/Encoding.lean ====
section
/-! SUPPORT. Each field of a packed request word reads back as it was packed (R91). -/

namespace Sys2Proof

variable (data : BitVec 64) (dlc : Byte) (id : Word) (b : Byte) (op : BitVec 3)

theorem opField_packRequest : opField (packRequest data dlc id b op) = op := by
  apply BitVec.eq_of_getElem_eq
  intro i hi
  simp only [opField, packRequest, BitVec.getElem_extractLsb', BitVec.getLsbD_append]
  simp [hi]

theorem byteField_packRequest : byteField (packRequest data dlc id b op) = b := by
  apply BitVec.eq_of_getElem_eq
  intro i hi
  simp only [byteField, packRequest, BitVec.getElem_extractLsb', BitVec.getLsbD_append]
  simp [hi, show ¬ 3 + i < 3 by omega, show 3 + i - 3 = i by omega]

theorem canIdField_packRequest : canIdField (packRequest data dlc id b op) = id := by
  apply BitVec.eq_of_getElem_eq
  intro i hi
  simp only [canIdField, packRequest, BitVec.getElem_extractLsb', BitVec.getLsbD_append]
  simp [hi, show ¬ 11 + i < 3 by omega, show ¬ 11 + i - 3 < 8 by omega, show 11 + i - 3 - 8 = i by omega]

theorem dlcField_packRequest : dlcField (packRequest data dlc id b op) = dlc := by
  apply BitVec.eq_of_getElem_eq
  intro i hi
  simp only [dlcField, packRequest, BitVec.getElem_extractLsb', BitVec.getLsbD_append]
  simp [hi, show ¬ 43 + i < 3 by omega, show ¬ 43 + i - 3 < 8 by omega, show ¬ 43 + i - 3 - 8 < 32 by omega,
    show 43 + i - 3 - 8 - 32 = i by omega]

/-- Byte `k` of the packed data (R91). -/
theorem canDataByte_packRequest (k : Nat) (hk : k < 8) :
    canDataByte (packRequest data dlc id b op) k = data.extractLsb' (8 * k) 8 := by
  apply BitVec.eq_of_getElem_eq
  intro i hi
  simp only [canDataByte, packRequest, BitVec.getElem_extractLsb', BitVec.getLsbD_append]
  simp [show ¬ 51 + 8 * k + i < 3 by omega, show ¬ 51 + 8 * k + i - 3 < 8 by omega,
    show ¬ 51 + 8 * k + i - 3 - 8 < 32 by omega, show ¬ 51 + 8 * k + i - 3 - 8 - 32 < 8 by omega,
    show 51 + 8 * k + i - 3 - 8 - 32 - 8 = 8 * k + i by omega]

end Sys2Proof
end

