-- ==== Sys2Proof/Laws/Memory.lean ====
section
/-! SUPPORT. The laws of the frame buffer: read after write, and every operation keeps the canonical form. -/

namespace Sys2Proof.Machine

@[simp] theorem Memory.read_nil (i : Nat) : Memory.read [] i = 0 := rfl

theorem Memory.risesAbove_mono {m : Memory} {lo hi : Nat} (h : Memory.risesAbove hi m = true) (hl : lo ≤ hi) :
    Memory.risesAbove lo m = true := by
  cases m with
  | nil => rfl
  | cons c rest =>
    simp only [Memory.risesAbove, Bool.and_eq_true, decide_eq_true_eq] at h ⊢
    exact ⟨Nat.le_trans hl h.1, h.2⟩

/-- An index below the bound is not listed. -/
theorem Memory.read_below {m : Memory} {lo i : Nat} (h : Memory.risesAbove lo m = true) (hi : i < lo) :
    m.read i = 0 := by
  induction m generalizing lo with
  | nil => rfl
  | cons c rest ih =>
    obtain ⟨k, v⟩ := c
    simp only [Memory.risesAbove, Bool.and_eq_true, decide_eq_true_eq] at h
    rw [Memory.read, if_neg (by omega)]
    exact ih h.2 (by omega)

/-- Read after write, in a buffer whose indices rise. -/
theorem Memory.read_write {m : Memory} {lo : Nat} (h : Memory.risesAbove lo m = true) (i j : Nat) (v : Byte) :
    (m.write i v).read j = if j = i then v else m.read j := by
  induction m generalizing lo with
  | nil =>
    by_cases hv : v = 0#8
    · simp [Memory.write, Memory.read, hv]
    · by_cases hj : j = i
      · simp [Memory.write, Memory.read, hv, hj]
      · simp [Memory.write, Memory.read, hv, hj, show ¬ i = j by omega]
  | cons c rest ih =>
    obtain ⟨k, w⟩ := c
    simp only [Memory.risesAbove, Bool.and_eq_true, decide_eq_true_eq] at h
    have hrest := h.2
    have hbelow : ∀ a, a < k + 1 → Memory.read rest a = 0 := fun a ha => Memory.read_below hrest ha
    simp only [Memory.write]
    split
    · rename_i hik
      by_cases hv : v = 0#8
      · by_cases hj : j = i
        · simp [hv, hj, Memory.read, hbelow i (by omega), show ¬ k = i by omega]
        · simp [hv, hj]
      · by_cases hj : j = i
        · simp [hv, hj, Memory.read]
        · simp [hv, hj, Memory.read, show ¬ i = j by omega]
    · split
      · rename_i hik
        by_cases hv : v = 0#8
        · by_cases hj : j = i
          · simp [hv, hj, hbelow i (by omega)]
          · simp [hv, hj, Memory.read, show ¬ k = j by omega]
        · by_cases hj : j = i
          · simp [hv, hj, Memory.read]
          · simp [hv, hj, Memory.read, show ¬ i = j by omega, show ¬ k = j by omega]
      · by_cases hj : j = i
        · subst hj
          simp [Memory.read, show ¬ k = j by omega, ih hrest]
        · by_cases hk : k = j
          · simp [Memory.read, hk, hj]
          · simp [Memory.read, hk, hj, ih hrest]

theorem Memory.risesAbove_write {m : Memory} {lo : Nat} (h : Memory.risesAbove lo m = true) (i : Nat) (v : Byte)
    (hlo : lo ≤ i) : Memory.risesAbove lo (m.write i v) = true := by
  induction m generalizing lo with
  | nil => by_cases hv : v = 0#8 <;> simp [Memory.write, Memory.risesAbove, hv, hlo]
  | cons c rest ih =>
    obtain ⟨k, w⟩ := c
    simp only [Memory.risesAbove, Bool.and_eq_true, decide_eq_true_eq] at h
    simp only [Memory.write]
    split
    · by_cases hv : v = 0#8
      · simp [hv, Memory.risesAbove, h]
      · simp only [hv, if_false, Memory.risesAbove, Bool.and_eq_true, decide_eq_true_eq]
        exact ⟨hlo, by omega, h.2⟩
    · split
      · by_cases hv : v = 0#8
        · simpa [hv] using Memory.risesAbove_mono h.2 (by omega)
        · simp only [hv, if_false, Memory.risesAbove, Bool.and_eq_true, decide_eq_true_eq]
          exact ⟨hlo, by rename_i hik; rw [hik]; exact h.2⟩
      · simp only [Memory.risesAbove, Bool.and_eq_true, decide_eq_true_eq]
        exact ⟨h.1, ih h.2 (by omega)⟩

/-- A property of every listed entry holds after a write of an entry that has it, unless the byte is 0. -/
theorem Memory.all_write {p : Host.Cell → Bool} {m : Memory} (h : m.all p = true) {i : Nat} {v : Byte}
    (hp : v ≠ 0#8 → p (i, v) = true) : (m.write i v).all p = true := by
  induction m with
  | nil =>
    by_cases hv : v = 0#8
    · simp [Memory.write, hv]
    · simp [Memory.write, hv, hp hv]
  | cons c rest ih =>
    obtain ⟨k, w⟩ := c
    simp only [List.all_cons, Bool.and_eq_true] at h
    simp only [Memory.write]
    by_cases hv : v = 0#8
    · simp only [hv, if_true]
      repeat' split
      all_goals try simp only [List.all_cons, Bool.and_eq_true]
      exacts [h, h.2, ⟨h.1, hv ▸ ih h.2⟩]
    · simp only [hv, if_false]
      repeat' split
      all_goals simp only [List.all_cons, Bool.and_eq_true]
      exacts [⟨hp hv, h⟩, ⟨hp hv, h.2⟩, ⟨h.1, ih h.2⟩]

/-- Every write keeps the canonical form. -/
theorem Memory.wf_write {m : Memory} (h : m.wf = true) (i : Nat) (v : Byte) : (m.write i v).wf = true := by
  simp only [Memory.wf, Bool.and_eq_true] at h ⊢
  exact ⟨Memory.risesAbove_write h.1 i v (Nat.zero_le i), Memory.all_write h.2 (by simp)⟩

theorem Memory.within_write {m : Memory} {cap : Nat} (h : m.within cap = true) {i : Nat} (hi : i < cap) (v : Byte) :
    (m.write i v).within cap = true :=
  Memory.all_write h (by simp [hi])

/-- `BufWrite` keeps the canonical form (R61). -/
theorem State.bufWrite_wf {s : State} (h : s.buf.wf = true) (i : Nat) (v : Byte) :
    (s.bufWrite i v).buf.wf = true := by
  rw [State.bufWrite_buf]
  split
  · exact Memory.wf_write h i v
  · exact h

/-- `BufWrite` stores nothing at or beyond `BUF_CAP` (R61). -/
theorem State.bufWrite_within {s : State} (h : s.buf.within s.cfg.bufCap = true) (i : Nat) (v : Byte) :
    (s.bufWrite i v).buf.within s.cfg.bufCap = true := by
  rw [State.bufWrite_buf]
  split
  · rename_i hi
    exact Memory.within_write h hi v
  · exact h

/-- What a read sees after `BufWrite` (R12, R61). -/
theorem State.bufRead_bufWrite {s : State} (h : s.buf.wf = true) (i j : Nat) (v : Byte) :
    (s.bufWrite i v).bufRead j = if j = i ∧ i < s.cfg.bufCap then v else s.bufRead j := by
  simp only [Memory.wf, Bool.and_eq_true] at h
  simp only [State.bufRead, State.bufWrite_buf]
  by_cases hi : i < s.cfg.bufCap
  · simp [hi, Memory.read_write h.1]
  · simp [hi]

end Sys2Proof.Machine
end

