-- ==== Sys2Proof/Laws/Framer.lean ====
section
/-! SUPPORT. The laws of FEED_BYTE: which arm a parser state takes, what COMMIT_FRAME and CRC_FAIL do to every field,
and what every FEED_BYTE leaves alone. -/

namespace Sys2Proof.Machine

/-! ## The arms (R120) -/

theorem feedByte_seek0 {s : State} (h : s.parserState = .seek0) (b : Byte) : feedByte b s = feedSeek0 b s := by
  simp [feedByte, h]
theorem feedByte_seek1 {s : State} (h : s.parserState = .seek1) (b : Byte) :
    feedByte b s = feedHeader hdr1 .seek2 b s := by simp [feedByte, h]
theorem feedByte_seek2 {s : State} (h : s.parserState = .seek2) (b : Byte) :
    feedByte b s = feedHeader hdr2 .seek3 b s := by simp [feedByte, h]
theorem feedByte_seek3 {s : State} (h : s.parserState = .seek3) (b : Byte) :
    feedByte b s = feedHeader hdr3 .seekVersion b s := by simp [feedByte, h]
theorem feedByte_seekVersion {s : State} (h : s.parserState = .seekVersion) (b : Byte) :
    feedByte b s = feedVersion b s := by simp [feedByte, h]
theorem feedByte_readLength {s : State} (h : s.parserState = .readLength) (b : Byte) :
    feedByte b s = feedLength b s := by simp [feedByte, h]
theorem feedByte_readBody {s : State} (h : s.parserState = .readBody) (b : Byte) :
    feedByte b s = feedBody b s := by simp [feedByte, h]

/-- The header arms move the parser and answer with a tag that is no frame's outcome, and do nothing else (R121 to
R124). -/
def OnlyMoves (s t : State) : Prop :=
  ∃ p e, e ∈ [Event.noise, .hdrAdvance, .desync, .lenReject] ∧ t = (s.moveTo p).answer .none (some e)

theorem feedSeek0_onlyMoves (b : Byte) (s : State) : OnlyMoves s (feedSeek0 b s) :=
  ⟨_, _, by split <;> simp, rfl⟩

theorem feedHeader_onlyMoves (h : Byte) (n : ParserState) (b : Byte) (s : State) :
    OnlyMoves s (feedHeader h n b s) := by
  unfold feedHeader; split <;> exact ⟨_, _, by simp, rfl⟩

theorem feedVersion_onlyMoves (b : Byte) (s : State) : OnlyMoves s (feedVersion b s) := by
  unfold feedVersion; split <;> exact ⟨_, _, by simp, rfl⟩

theorem OnlyMoves.sameButParserState {s t : State} (h : OnlyMoves s t) : SameButParserState s t := by
  obtain ⟨p, e, _, rfl⟩ := h
  exact ⟨rfl, rfl, rfl, rfl, fun _ => rfl, ⟨⟨fun _ => rfl, fun _ => rfl⟩, rfl, rfl, rfl, rfl⟩, ⟨rfl, rfl⟩⟩

/-- What one FEED_BYTE can do: move the parser, open a frame, take a body byte, or complete a frame (R121 to R134). -/
inductive FeedCase (b : Byte) (s t : State) : Prop where
  | moves (outside : s.parserState ≠ .readBody) (h : OnlyMoves s t)
      (stays : t.parserState ≠ .readBody)
  | opens (st : s.parserState = .readLength) (acc : lengthAccepted b = true)
      (h : t = (openFrame b s).answer .none (some .lenAccept))
  | body (st : s.parserState = .readBody) (ne : s.rxCount ≠ s.frameLen) (ne1 : s.rxCount.toNat + 1 ≠ s.frameLen.toNat)
      (h : t = (bodyByte b s).answer .none (some .body))
  | crcLow (st : s.parserState = .readBody) (ne : s.rxCount ≠ s.frameLen) (eq1 : s.rxCount.toNat + 1 = s.frameLen.toNat)
      (h : t = (captureCrcLow b (bodyByte b s)).answer .none (some .body))
  | commit (st : s.parserState = .readBody) (eq : s.rxCount = s.frameLen)
      (crc : (bodyByte b s).crcAcc = le16 s.crcRxLo b) (h : t = commitFrame (closeFrame (bodyByte b s)))
  | crcErr (st : s.parserState = .readBody) (eq : s.rxCount = s.frameLen)
      (crc : (bodyByte b s).crcAcc ≠ le16 s.crcRxLo b) (h : t = crcFail (closeFrame (bodyByte b s)))

theorem seek0_ne_readBody (b : Byte) : seek0 b ≠ .readBody := by unfold seek0; split <;> simp

theorem feedByte_cases (b : Byte) (s : State) : FeedCase b s (feedByte b s) := by
  cases hp : s.parserState with
  | seek0 =>
    rw [feedByte_seek0 hp]
    exact .moves (by simp [hp]) (feedSeek0_onlyMoves b s) (seek0_ne_readBody b)
  | seek1 =>
    rw [feedByte_seek1 hp]
    refine .moves (by simp [hp]) (feedHeader_onlyMoves _ _ b s) ?_
    unfold feedHeader; split <;> simp [seek0_ne_readBody]
  | seek2 =>
    rw [feedByte_seek2 hp]
    refine .moves (by simp [hp]) (feedHeader_onlyMoves _ _ b s) ?_
    unfold feedHeader; split <;> simp [seek0_ne_readBody]
  | seek3 =>
    rw [feedByte_seek3 hp]
    refine .moves (by simp [hp]) (feedHeader_onlyMoves _ _ b s) ?_
    unfold feedHeader; split <;> simp [seek0_ne_readBody]
  | seekVersion =>
    rw [feedByte_seekVersion hp]
    refine .moves (by simp [hp]) (feedVersion_onlyMoves b s) ?_
    unfold feedVersion; repeat' split
    all_goals simp [seek0_ne_readBody]
  | readLength =>
    rw [feedByte_readLength hp]
    unfold feedLength
    split
    · exact .opens hp ‹_› rfl
    · exact .moves (by simp [hp]) ⟨_, _, by simp, rfl⟩ (by simp)
  | readBody =>
    rw [feedByte_readBody hp]
    unfold feedBody completeFrame
    rw [bodyByte_crcRxLo]
    split
    · split
      · exact .commit hp ‹_› ‹_› rfl
      · exact .crcErr hp ‹_› ‹_› rfl
    · split
      · exact .crcLow hp ‹_› ‹_› rfl
      · exact .body hp ‹_› ‹_› rfl

/-! ## COMMIT_FRAME, field by field (R133) -/

/-- The decoders of a commit change channel registers alone (R160). -/
theorem decoders_only (s : State) : OnlyChannels s (slowDecode (fastDecode s)) :=
  (fastDecode_only s).trans (slowDecode_only _)

section
variable (s : State)
@[simp] theorem commitFrame_cfg : (commitFrame s).cfg = s.cfg := (decoders_only s).cfg
@[simp] theorem commitFrame_parserState : (commitFrame s).parserState = s.parserState := (decoders_only s).parserState
@[simp] theorem commitFrame_frameLen : (commitFrame s).frameLen = s.frameLen := (decoders_only s).frameLen
@[simp] theorem commitFrame_rxCount : (commitFrame s).rxCount = s.rxCount := (decoders_only s).rxCount
@[simp] theorem commitFrame_crcAcc : (commitFrame s).crcAcc = s.crcAcc := (decoders_only s).crcAcc
@[simp] theorem commitFrame_crcRxLo : (commitFrame s).crcRxLo = s.crcRxLo := (decoders_only s).crcRxLo
@[simp] theorem commitFrame_buf : (commitFrame s).buf = s.buf := (decoders_only s).buf
@[simp] theorem commitFrame_chans : (commitFrame s).chans = (slowDecode (fastDecode s)).chans := rfl
@[simp] theorem commitFrame_connected : (commitFrame s).connected = true := rfl
@[simp] theorem commitFrame_packetCount : (commitFrame s).packetCount = s.packetCount + 1 := by
  rw [← (decoders_only s).packetCount]; rfl
@[simp] theorem commitFrame_errorCount : (commitFrame s).errorCount = s.errorCount := (decoders_only s).errorCount
@[simp] theorem commitFrame_newData : (commitFrame s).newData = true := rfl
@[simp] theorem commitFrame_requests : (commitFrame s).requests = s.requests := (decoders_only s).requests
@[simp] theorem commitFrame_response : (commitFrame s).response = .none := rfl
@[simp] theorem commitFrame_event : (commitFrame s).event = some .frameOk := rfl
@[simp] theorem commitFrame_valOf (c : Nat) : (commitFrame s).valOf c = (slowDecode (fastDecode s)).valOf c :=
  valOf_of_chans_eq (commitFrame_chans s) c
@[simp] theorem commitFrame_validOf (c : Nat) :
    (commitFrame s).validOf c = (slowDecode (fastDecode s)).validOf c := validOf_of_chans_eq (commitFrame_chans s) c
end

/-! ## The state a commit decodes (R129, R133) -/

section
variable (b : Byte) (s : State)
@[simp] theorem State.atCommit_cfg : (s.atCommit b).cfg = s.cfg := by simp [State.atCommit]
@[simp] theorem State.atCommit_parserState : (s.atCommit b).parserState = .seek0 := by simp [State.atCommit]
@[simp] theorem State.atCommit_frameLen : (s.atCommit b).frameLen = s.frameLen := by simp [State.atCommit]
@[simp] theorem State.atCommit_rxCount : (s.atCommit b).rxCount = 0 := by simp [State.atCommit]
@[simp] theorem State.atCommit_chans : (s.atCommit b).chans = s.chans := by simp [State.atCommit]
@[simp] theorem State.atCommit_connected : (s.atCommit b).connected = s.connected := by simp [State.atCommit]
@[simp] theorem State.atCommit_packetCount : (s.atCommit b).packetCount = s.packetCount := by simp [State.atCommit]
@[simp] theorem State.atCommit_errorCount : (s.atCommit b).errorCount = s.errorCount := by simp [State.atCommit]
@[simp] theorem State.atCommit_newData : (s.atCommit b).newData = s.newData := by simp [State.atCommit]
@[simp] theorem State.atCommit_requests : (s.atCommit b).requests = s.requests := by simp [State.atCommit]
@[simp] theorem State.atCommit_valOf (c : Nat) : (s.atCommit b).valOf c = s.valOf c :=
  valOf_of_chans_eq (State.atCommit_chans b s) c
@[simp] theorem State.atCommit_validOf (c : Nat) : (s.atCommit b).validOf c = s.validOf c :=
  validOf_of_chans_eq (State.atCommit_chans b s) c
end

/-! ## CRC_FAIL: the error counter alone (R134) -/

theorem crcFail_eq (s : State) : crcFail s = (s.countError).answer .none (some .frameCrcErr) := rfl

/-! ## What every FEED_BYTE leaves alone -/

theorem feedByte_cfg (b : Byte) (s : State) : (feedByte b s).cfg = s.cfg := by
  cases feedByte_cases b s with
  | moves _ h _ => obtain ⟨p, e, _, h⟩ := h; rw [h]; rfl
  | opens _ _ h => rw [h]; simp
  | body _ _ _ h => rw [h]; simp
  | crcLow _ _ _ h => rw [h]; simp
  | commit _ _ _ h => rw [h]; simp
  | crcErr _ _ _ h => rw [h]; simp [crcFail]

theorem feedByte_requests (b : Byte) (s : State) : (feedByte b s).requests = s.requests := by
  cases feedByte_cases b s with
  | moves _ h _ => obtain ⟨p, e, _, h⟩ := h; rw [h]; rfl
  | opens _ _ h => rw [h]; simp
  | body _ _ _ h => rw [h]; simp
  | crcLow _ _ _ h => rw [h]; simp
  | commit _ _ _ h => rw [h]; simp
  | crcErr _ _ _ h => rw [h]; simp [crcFail]

end Sys2Proof.Machine
end

