-- ==== Sys2Proof/Laws/PerInstr.lean ====
section
/-! SUPPORT. A statement made per instruction: the code field of an instruction's encoding is its transaction code
(R91, R92). -/

namespace Sys2Proof.Laws.OpField

/-- `q[2:0]` of the encoding is the transaction code of rule R92. -/
def Statement (i : Instr) : Prop := opField (encode i) = opcode i

theorem init : Statement .init := opField_packRequest _ _ _ _ _
theorem feedByte (b : Byte) : Statement (.feedByte b) := opField_packRequest _ _ _ _ _
theorem feedCan (id : Word) (data : CanData) (dlc : Byte) : Statement (.feedCan id data dlc) :=
  opField_packRequest _ _ _ _ _
theorem hasNewData : Statement .hasNewData := opField_packRequest _ _ _ _ _
theorem getSnapshot : Statement .getSnapshot := opField_packRequest _ _ _ _ _

end Sys2Proof.Laws.OpField
end

