-- ==== Sys2Proof/Laws/Render.lean ====
section
/-! SUPPORT. The laws of rendering (R169): integer rounding is to nearest with ties to even, the exponent is the
exponent of the value, and the magnitude bits are the two put together. -/

namespace Sys2Proof.Machine

/-- `roundEven n d` is an integer nearest `n/d`, and the even one where two are as near. -/
theorem roundEven_spec (n : Nat) {d : Nat} (hd : 0 < d) :
    2 * |(n : Int) - roundEven n d * d| ≤ d ∧ (2 * |(n : Int) - roundEven n d * d| = d → roundEven n d % 2 = 0) := by
  have hdiv : (n : Int) = (n / d : Nat) * d + (n % d : Nat) := by
    rw [mul_comm]; exact_mod_cast (Nat.div_add_mod n d).symm
  have hr : n % d < d := Nat.mod_lt _ hd
  have low : |(n : Int) - ((n / d : Nat) : Int) * d| = (n % d : Nat) := by
    rw [show (n : Int) - ((n / d : Nat) : Int) * d = (n % d : Nat) by omega]; exact abs_of_nonneg (Int.natCast_nonneg _)
  have high : |(n : Int) - ((n / d + 1 : Nat) : Int) * d| = d - (n % d : Nat) := by
    rw [show (n : Int) - ((n / d + 1 : Nat) : Int) * d = -(d - (n % d : Nat)) by push_cast; rw [add_mul]; push_cast at hdiv; omega, abs_neg, abs_of_nonneg]
    omega
  unfold roundEven
  simp only
  split
  · rw [low]; omega
  · split
    · rw [high]; omega
    · split
      · rw [low]; omega
      · rw [high]; omega

/-- `2 ^ log2 n ≤ n < 2 ^ (log2 n + 1)`, over the rationals. -/
theorem log2_bounds {n : Nat} (h : 0 < n) : (2:ℚ) ^ (Nat.log2 n : ℤ) ≤ n ∧ (n:ℚ) < 2 ^ ((Nat.log2 n : ℤ) + 1) := by
  constructor
  · rw [zpow_natCast]; exact_mod_cast Nat.log2_self_le (by omega)
  · have : n < 2 ^ (Nat.log2 n + 1) := Nat.lt_log2_self
    exact_mod_cast this

/-- `floorLog2 n d` is the exponent of `n/d`. -/
theorem floorLog2_spec {n d : Nat} (hn : 0 < n) (hd : 0 < d) :
    (2:ℚ) ^ floorLog2 n d ≤ n / d ∧ (n / d : ℚ) < 2 ^ (floorLog2 n d + 1) := by
  obtain ⟨n1, n2⟩ := log2_bounds hn
  obtain ⟨d1, d2⟩ := log2_bounds hd
  have hdq : (0:ℚ) < d := by exact_mod_cast hd
  have hnq : (0:ℚ) < n := by exact_mod_cast hn
  set a : ℤ := (Nat.log2 n : ℤ)
  set b : ℤ := (Nat.log2 d : ℤ)
  have up : (n / d : ℚ) < 2 ^ (a - b + 1) := by
    rw [div_lt_iff₀ hdq]
    calc (n:ℚ) < 2 ^ (a + 1) := n2
      _ = 2 ^ (a - b + 1) * 2 ^ b := by rw [← zpow_add₀ (by norm_num)]; congr 1; ring
      _ ≤ _ := by gcongr
  have lo : (2:ℚ) ^ (a - b - 1) ≤ n / d := by
    rw [le_div_iff₀ hdq]
    calc (2:ℚ) ^ (a - b - 1) * d ≤ 2 ^ (a - b - 1) * 2 ^ (b + 1) := by gcongr
      _ = 2 ^ a := by rw [← zpow_add₀ (by norm_num)]; congr 1; ring
      _ ≤ n := n1
  have test : (if 0 ≤ a - b then decide (n < d * 2 ^ (a - b).toNat) else decide (n * 2 ^ (-(a - b)).toNat < d)) = true ↔ (n / d : ℚ) < 2 ^ (a - b) := by
    split
    · rename_i h
      rw [decide_eq_true_eq, div_lt_iff₀ hdq]
      have : (2:ℚ) ^ (a - b) = 2 ^ (a - b).toNat := by
        conv_lhs => rw [← Int.toNat_of_nonneg h]
        rw [zpow_natCast]
      rw [this, mul_comm]
      exact_mod_cast Iff.rfl
    · rename_i h
      rw [decide_eq_true_eq, div_lt_iff₀ hdq]
      have h' : 0 ≤ -(a - b) := by omega
      have : (2:ℚ) ^ (a - b) = (2 ^ (-(a - b)).toNat)⁻¹ := by
        conv_lhs => rw [show a - b = -(-(a-b)) by ring, zpow_neg, ← Int.toNat_of_nonneg h']
        rw [zpow_natCast]
      rw [this, inv_mul_eq_div, lt_div_iff₀ (by positivity)]
      exact_mod_cast Iff.rfl
  have unf : floorLog2 n d = if (if 0 ≤ a - b then decide (n < d * 2 ^ (a - b).toNat) else decide (n * 2 ^ (-(a - b)).toNat < d)) = true then a - b - 1 else a - b := rfl
  rw [unf]
  by_cases h : (n / d : ℚ) < 2 ^ (a - b)
  · rw [if_pos (test.mpr h)]
    exact ⟨lo, by rw [show a - b - 1 + 1 = a - b by ring]; exact h⟩
  · rw [if_neg (fun hh => h (test.mp hh))]
    exact ⟨not_lt.mp h, up⟩

/-- `m` is an integer nearest `x`, and even where two are as near. -/
def Near (x : ℚ) (m : Nat) : Prop := 2 * |x - m| ≤ 1 ∧ (2 * |x - m| = 1 → m % 2 = 0)

/-- `roundEven` rounds the rational `n/d`. -/
theorem near_round (n d : Nat) (hd : 0 < d) : Near (n / d) (roundEven n d) := by
  obtain ⟨h1, h2⟩ := roundEven_spec n hd
  have hdq : (0:ℚ) < d := by exact_mod_cast hd
  have e : |(n / d : ℚ) - roundEven n d| * d = ((|(n : Int) - roundEven n d * d| : ℤ) : ℚ) := by
    push_cast
    rw [← abs_of_pos hdq, ← abs_mul, abs_of_pos hdq, sub_mul, div_mul_cancel₀ _ hdq.ne']
  constructor
  · have : (2 * |(n : Int) - roundEven n d * d| : ℚ) ≤ d := by exact_mod_cast h1
    rw [← mul_le_mul_iff_of_pos_right hdq, one_mul, mul_assoc, e]; exact_mod_cast h1
  · intro h
    apply h2
    have : 2 * (|(n / d : ℚ) - roundEven n d| * d) = d := by rw [← mul_assoc, h, one_mul]
    rw [e] at this; exact_mod_cast this

/-- The magnitude bits are an exponent field `E` and a rounded significand `m`: `m` is nearest the value scaled by
`2 ^ 149 / 2 ^ E`, which has 24 bits, and 23 bits at least unless `E` is 0 (a subnormal). -/
theorem magnitude_spec (n d : Nat) (hn : 0 < n) (hd : 0 < d) : ∃ E m : Nat, magnitude32 n d = min (E * 2 ^ 23 + m) 0x7F800000 ∧
    Near ((n / d : ℚ) * 2 ^ 149 / 2 ^ E) m ∧ (n / d : ℚ) * 2 ^ 149 / 2 ^ E < 2 ^ 24 ∧ (E ≠ 0 → 2 ^ 23 ≤ (n / d : ℚ) * 2 ^ 149 / 2 ^ E) := by
  obtain ⟨f1, f2⟩ := floorLog2_spec hn hd
  have hdq : (0:ℚ) < d := by exact_mod_cast hd
  set f := floorLog2 n d with hf
  obtain ⟨E, hE⟩ : ∃ E : Nat, max f (-126) + 126 = E := ⟨(max f (-126) + 126).toNat, by omega⟩
  have pw : (2:ℚ) ^ 149 / 2 ^ E = 2 ^ (23 - max f (-126)) := by
    rw [← zpow_natCast, ← zpow_natCast, ← zpow_sub₀ (by norm_num)]; congr 1; push_cast; omega
  refine ⟨E, if 0 ≤ 23 - max f (-126) then roundEven (n * 2 ^ (23 - max f (-126)).toNat) d else roundEven n (d * 2 ^ (-(23 - max f (-126))).toNat), ?_, ?_, ?_, ?_⟩
  · unfold magnitude32; simp only; rw [← hf]; rw [show (max f (-126) + 126).toNat = E by omega]
  · rw [mul_div_assoc, pw]
    split
    · rename_i h
      have := near_round (n * 2 ^ (23 - max f (-126)).toNat) d hd
      have e : ((n / d : ℚ) * 2 ^ (23 - max f (-126))) = ((n * 2 ^ (23 - max f (-126)).toNat : Nat) : ℚ) / d := by
        conv_lhs => rw [← Int.toNat_of_nonneg h, zpow_natCast]
        push_cast; ring
      rw [e]; exact this
    · rename_i h
      have h' : 0 ≤ -(23 - max f (-126)) := by omega
      have := near_round n (d * 2 ^ (-(23 - max f (-126))).toNat) (by positivity)
      have e : ((n / d : ℚ) * 2 ^ (23 - max f (-126))) = (n : ℚ) / ((d * 2 ^ (-(23 - max f (-126))).toNat : Nat) : ℚ) := by
        conv_lhs => rw [show 23 - max f (-126) = -(-(23 - max f (-126))) by ring, zpow_neg, ← Int.toNat_of_nonneg h', zpow_natCast]
        push_cast; field_simp
      rw [e]; exact this
  · rw [mul_div_assoc, pw]
    calc (n / d : ℚ) * 2 ^ (23 - max f (-126)) < 2 ^ (f + 1) * 2 ^ (23 - max f (-126)) := by gcongr
      _ = 2 ^ (f + 1 + (23 - max f (-126))) := by rw [← zpow_add₀ (by norm_num)]
      _ ≤ 2 ^ (24 : ℤ) := by apply zpow_le_zpow_right₀ (by norm_num); omega
      _ = 2 ^ 24 := by norm_num
  · intro h
    rw [mul_div_assoc, pw]
    calc (2:ℚ) ^ 23 = 2 ^ (23 : ℤ) := by norm_num
      _ ≤ 2 ^ (f + (23 - max f (-126))) := by apply zpow_le_zpow_right₀ (by norm_num); omega
      _ = 2 ^ f * 2 ^ (23 - max f (-126)) := by rw [← zpow_add₀ (by norm_num)]
      _ ≤ _ := by gcongr

end Sys2Proof.Machine
end

