-- ==== Sys2Proof/Laws/Step.lean ====
section
/-! SUPPORT. The laws of FEED_CAN, of the store interface, of `exec` and of `step`: what each can answer. -/

namespace Sys2Proof.Machine

/-! ## FEED_CAN (R200 to R205) -/

/-- FEED_CAN either answers "not recognised" and changes nothing, or decodes into the channels and marks the decode. -/
theorem feedCan_cases (id : Word) (data : CanData) (dlc : Byte) (s : State) :
    (lookupCan s.cfg.canTable id = none ∧ feedCan id data dlc s = s.answer (.bit false) (some .canUnknown)) ∨
    ∃ E, lookupCan s.cfg.canTable id = some E ∧
      feedCan id data dlc s =
        ((decodeCanFields data dlc E.fields s).markDecoded).answer (.bit true) (some .canOk) := by
  unfold feedCan
  split
  · exact .inl ⟨‹_›, rfl⟩
  · exact .inr ⟨_, ‹_›, rfl⟩

theorem feedCan_cfg (id : Word) (data : CanData) (dlc : Byte) (s : State) : (feedCan id data dlc s).cfg = s.cfg := by
  rcases feedCan_cases id data dlc s with ⟨_, h⟩ | ⟨E, _, h⟩ <;> rw [h]
  · rfl
  · exact (decodeCanFields_only data dlc E.fields s).cfg

theorem feedCan_requests (id : Word) (data : CanData) (dlc : Byte) (s : State) :
    (feedCan id data dlc s).requests = s.requests := by
  rcases feedCan_cases id data dlc s with ⟨_, h⟩ | ⟨E, _, h⟩ <;> rw [h]
  · rfl
  · exact (decodeCanFields_only data dlc E.fields s).requests

/-! ## exec -/

/-- Everything `exec` can answer with a next state. -/
inductive ExecCase (s t : State) : Instr → Prop where
  | init (h : t = (initAll s).answer .none none) : ExecCase s t .init
  | feedByte (b : Byte) (port : s.cfg.transport.hasUart = true) (h : t = Machine.feedByte b s) :
      ExecCase s t (.feedByte b)
  | feedCan (id : Word) (data : CanData) (dlc : Byte) (port : s.cfg.transport.hasCan = true)
      (h : t = Machine.feedCan id data dlc s) : ExecCase s t (.feedCan id data dlc)
  | hasNewData (h : t = s.clearNewData.answer (.bit s.newData) none) : ExecCase s t .hasNewData
  | getSnapshot (h : t = s.answer (.snapshot s.snapshot) none) : ExecCase s t .getSnapshot

theorem exec_cases {i : Instr} {s t : State} (h : exec i s = .next t) : ExecCase s t i := by
  cases i with
  | init => exact .init (Host.Outcome.next.inj h).symm
  | feedByte b =>
    simp only [exec, execFeedByte] at h
    split at h
    · exact .feedByte b ‹_› (Host.Outcome.next.inj h).symm
    · cases h
  | feedCan id data dlc =>
    simp only [exec, execFeedCan] at h
    split at h
    · exact .feedCan id data dlc ‹_› (Host.Outcome.next.inj h).symm
    · cases h
  | hasNewData => exact .hasNewData (Host.Outcome.next.inj h).symm
  | getSnapshot => exact .getSnapshot (Host.Outcome.next.inj h).symm

theorem exec_cfg {i : Instr} {s t : State} (h : exec i s = .next t) : t.cfg = s.cfg := by
  cases exec_cases h with
  | init he => rw [he]; rfl
  | feedByte b _ he => rw [he, feedByte_cfg]
  | feedCan id data dlc _ he => rw [he, feedCan_cfg]
  | hasNewData he => rw [he]; rfl
  | getSnapshot he => rw [he]; rfl

theorem exec_requests {i : Instr} {s t : State} (h : exec i s = .next t) : t.requests = s.requests := by
  cases exec_cases h with
  | init he => rw [he]; rfl
  | feedByte b _ he => rw [he, feedByte_requests]
  | feedCan id data dlc _ he => rw [he, feedCan_requests]
  | hasNewData he => rw [he]; rfl
  | getSnapshot he => rw [he]; rfl

/-! ## step -/

/-- Everything `step` can answer with a next state. -/
theorem step_cases {s t : State} (h : step s = .next t) :
    s.cfg.wellFormed = true ∧
    ((s.requests = [] ∧ t = s) ∨
     ∃ q rest i, s.requests = q :: rest ∧ decode q = .ok i ∧ exec i { s with requests := rest } = .next t) := by
  cases hr : s.requests with
  | nil =>
    simp only [step, State.fetch, hr] at h
    split at h
    · exact ⟨‹_›, .inl ⟨rfl, (Host.Outcome.next.inj h).symm⟩⟩
    · cases h
  | cons q rest =>
    simp only [step, State.fetch, hr] at h
    split at h
    · split at h
      · exact ⟨‹_›, .inr ⟨q, rest, _, rfl, ‹_›, h⟩⟩
      · cases h
    · cases h

end Sys2Proof.Machine
end

