-- ==== Sys2Proof/Tests/Slice0.lean ====
section
/-! SUPPORT. Tests and witnesses. Expected values come from the spec's layouts and vectors (95_test_vectors.md, named
beside each test); every test is one step. The witnesses show a state and operands that meet the hypotheses of an
obligation. -/

namespace Sys2Proof.Tests

open Sys2Proof Sys2Proof.Machine

/-! ## Small states -/

/-- EX-U after power-on, with candidate A as its CRC update. -/
def uartA : State := State.powerOn (Config.ex .uart .candA)
/-- EX-C after power-on. -/
def canA : State := State.powerOn (Config.ex .can .candA)
/-- EX-U with the parser in a given state. -/
def inState (p : ParserState) : State := { uartA with parserState := p }
/-- EX-U inside a frame of length `len`, at index `rx`. -/
def inBody (len rx : Byte) (crc : Half) (lo : Byte) (buf : Memory) : State :=
  { uartA with parserState := .readBody, frameLen := len, rxCount := rx, crcAcc := crc, crcRxLo := lo, buf := buf }
/-- The minimal frame of V3, `04 00 00 5C 10` under A, before its last byte `10`. -/
def beforeLast : State := inBody 4 4 0x105C 0x5C [(0, 4), (3, 0x5C)]
/-- Frame F0 of program P2 before its last byte `9A`. -/
def beforeLastF0 : State :=
  inBody 20 20 0x9A7E 0x7E
    [(0, 0x14), (1, 1), (2, 0x88), (3, 0x13), (4, 0xFF), (5, 0x38), (6, 0xFF), (8, 0x5E), (9, 1), (10, 0xFE), (19, 0x7E)]
/-- The same state with a parameter of its configuration changed. -/
def withSkip (s : State) : State := { s with cfg := { s.cfg with shortFrame := .skip } }

/-- The next state of an outcome, where there is one. -/
def nextOf : Host.Outcome State Fault Refusal → Option State
  | .next t => some t
  | .fault _ => none
  | .refused _ => none

/-! ## Decoding, from the layout of R91 -/

/-- `q[2:0] = 000`. -/
theorem test_decode_init : decode 0b000 = .ok .init := by decide
/-- `q[10:3] = 01010101`, `q[2:0] = 001`; the spec writes `q = 0x2A9`. -/
theorem test_decode_feedByte : decode 0b01010101_001 = .ok (.feedByte 0x55) := by decide
/-- `data[7]` to `data[0]`, then `dlc`, `can_id`, `b` (ignored) and `op`, each byte in hexadecimal digits of its own,
shifted by the field's place: V7's `FEED_CAN 0x304, [52 03 5E 01 00 00 00 00], 8`, with junk in `b`. -/
theorem test_decode_feedCan :
    decode (BitVec.ofNat 115 (0x00000000015E0352 <<< 51 + 8 <<< 43 + 0x304 <<< 11 + 0xFF <<< 3 + 0b010)) =
      .ok (.feedCan 0x304 ⟨0x52, 0x03, 0x5E, 0x01, 0, 0, 0, 0⟩ 8) := by decide
/-- `q[2:0] = 011`, the other fields ignored. -/
theorem test_decode_hasNewData : decode 0b11111111_011 = .ok .hasNewData := by decide
/-- `q[2:0] = 100`. -/
theorem test_decode_getSnapshot : decode 0b100 = .ok .getSnapshot := by decide
/-- R93. -/
theorem test_decode_reserved :
    decode 5 = .error (.reservedOp 5) ∧ decode 6 = .error (.reservedOp 6) ∧ decode 7 = .error (.reservedOp 7) := by
  decide
/-- The table's words reach the decoder (and a carrier's bits above the row's do not). -/
theorem test_decodeTableWord :
    decodeTableWord 8 0 = some .init ∧ decodeTableWord 16 0x2A9 = some (.feedByte 0x55) ∧
    decodeTableWord 8 3 = some .hasNewData ∧ decodeTableWord 8 4 = some .getSnapshot ∧ decodeTableWord 8 5 = none := by
  decide
/-- The encoder writes the spec's word for `FEED_BYTE 0x55`. -/
theorem test_encode_feedByte : encode (.feedByte 0x55) = 0x2A9 := by decide

/-! ## Well-formedness: the smoke test, one ill-formed configuration a check (R9) -/

/-- A field entry to spoil tables with. -/
def spoiler (ch off width : Nat) : FieldEntry := { ch := ch, off := off, width := width, signed := false, xf := .lin 1 1 0 }
/-- EX-U. -/
def ex : Config := Config.ex .uart .candA

theorem test_ex_wellFormed : ex.wellFormed = true ∧ (Config.ex .can .candA).wellFormed = true := by decide
theorem test_ex_source : ex.isSource = true ∧ (Config.ex .both .candA).isSource = false := by decide
theorem test_ex_holds_source_entries : ex.holdsSourceEntries = true := by decide
theorem test_formats_repeated_channel : ({ ex with channels := ⟨0, .int⟩ :: ex.channels }).wellFormed = false := by
  decide
theorem test_formats_nine_slots : ({ ex with slowTable := ex.slowTable.take 9 }).wellFormed = false := by decide
theorem test_formats_zero_denominator :
    ({ ex with fastTable := [{ spoiler 4 2 1 with xf := .lin 1 0 0 }] }).wellFormed = false := by decide
theorem test_check1_no_buffer :
    ({ ex with bufCap := 0 }).check1 = false ∧ ({ ex with bufCap := 0 }).wellFormed = false := by decide
theorem test_check2_fast_width : ({ ex with fastTable := [spoiler 4 2 3] }).wellFormed = false := by decide
theorem test_check2_fast_offset : ({ ex with fastTable := [spoiler 4 1 1] }).wellFormed = false := by decide
theorem test_check2_fast_beyond :
    ({ ex with fastTable := [spoiler 4 48 2] }).wellFormed = false ∧
    ({ ex with fastTable := [spoiler 4 47 2] }).wellFormed = true := by decide
theorem test_check3_selector :
    ({ ex with selOff := 1 }).wellFormed = false ∧ ({ ex with selOff := 49 }).check3 = false := by decide
theorem test_check4_slow_beyond : ({ ex with slowTable := [spoiler 5 10 2] :: ex.slowTable.drop 1 }).wellFormed = false := by
  decide
theorem test_check5_shared_slow : ({ ex with slowTable := [spoiler 8 0 1] :: ex.slowTable.drop 1 }).wellFormed = false := by
  decide
theorem test_check6_fast_and_slow : ({ ex with fastTable := [spoiler 5 2 1] }).wellFormed = false := by decide
theorem test_check7_repeated_id :
    ({ ex with canTable := ex.canTable ++ ex.canTable }).wellFormed = false := by decide
theorem test_check7_one_field :
    ({ ex with canTable := [⟨0x304, [oilTempField 0 true]⟩] }).wellFormed = false := by decide
theorem test_check7_odd_offset :
    ({ ex with canTable := [⟨0x304, [oilTempField 1 true, oilPressureField 2 true]⟩] }).wellFormed = false := by decide
theorem test_check8_signed_period :
    ({ ex with fastTable := [{ rpmEntry 2 with signed := true }] }).wellFormed = false := by decide
theorem test_check9_no_channel : ({ ex with fastTable := [spoiler 99 2 1] }).wellFormed = false := by decide
theorem test_check9_kind :
    ({ ex with fastTable := [spoiler 7 2 1] }).check9 = false ∧
    ({ ex with fastTable := [{ spoiler 4 2 1 with xf := .int }] }).wellFormed = false := by decide
/-- R94: which transactions a transport admits. -/
theorem test_ports :
    (Instr.feedCan 0 ⟨0, 0, 0, 0, 0, 0, 0, 0⟩ 0).wellFormed ex = false ∧
    (Instr.feedByte 0).wellFormed (Config.ex .can .candA) = false ∧ (Instr.feedByte 0).wellFormed ex = true ∧
    Instr.init.wellFormed ex = true := by decide

/-! ## Functions, on the spec's values -/

/-- R132, V3: the check values over `123456789`. -/
theorem test_crc_check_values :
    crcOf crcCandA [0x31, 0x32, 0x33, 0x34, 0x35, 0x36, 0x37, 0x38, 0x39] = 0x29B1 ∧
    crcOf crcCandB [0x31, 0x32, 0x33, 0x34, 0x35, 0x36, 0x37, 0x38, 0x39] = 0x6F91 := by decide
/-- V3 and P1. -/
theorem test_crc_p1 :
    crcOf crcCandA [0x0A, 0x00, 0x88, 0x13, 0x80, 0x00, 0x00, 0x0A, 0x00] = 0xD6C1 ∧
    crcOf crcCandB [0x0A, 0x00, 0x88, 0x13, 0x80, 0x00, 0x00, 0x0A, 0x00] = 0xCB31 := by decide
/-- V5, W2 and R169. -/
theorem test_render :
    renderNearestEven 2000 = 0x44FA0000 ∧ renderNearestEven (10000000 / 3) = 0x4A4B7355 ∧
    renderNearestEven (2000000 / 13107) = 0x43189719 ∧ renderNearestEven (2560 / 51) = 0x4248C8C9 ∧
    renderNearestEven 85 = 0x42AA0000 ∧ renderNearestEven (7 / 2) = 0x40600000 ∧ renderNearestEven 0 = 0 := by
  decide +kernel
/-- V5: signed and unsigned, one and two bytes, little-endian. -/
theorem test_raw :
    raw (fun i => if i = 0 then 0x38 else 0xFF) 0 2 true = -200 ∧
    raw (fun i => if i = 0 then 0x88 else 0x13) 0 2 false = 5000 ∧
    raw (fun _ => 0x80) 0 1 true = -128 ∧ raw (fun _ => 0xA5) 0 1 false = 165 := by decide

/-! ## One step of each transaction -/

/-- V1: the header search, row by row, with its tags. -/
theorem test_feedByte_search :
    ([(ParserState.seek0, (0x55 : Byte), ParserState.seek1, Event.hdrAdvance), (.seek0, 0x00, .seek0, .noise),
      (.seek1, 0x00, .seek2, .hdrAdvance), (.seek1, 0x55, .seek1, .desync), (.seek1, 0xAA, .seek0, .desync),
      (.seek2, 0xAA, .seek3, .hdrAdvance), (.seek2, 0x55, .seek1, .desync), (.seek2, 0x00, .seek0, .desync),
      (.seek3, 0x00, .seekVersion, .hdrAdvance), (.seek3, 0x55, .seek1, .desync), (.seekVersion, 0x01, .readLength, .hdrAdvance),
      (.seekVersion, 0x55, .seek1, .desync), (.seekVersion, 0x02, .seek0, .desync), (.readLength, 0x03, .seek0, .lenReject),
      (.readLength, 0x04, .readBody, .lenAccept), (.readLength, 0x30, .readBody, .lenAccept),
      (.readLength, 0x31, .seek0, .lenReject), (.readLength, 0x55, .seek0, .lenReject)].all fun row =>
        (nextOf (exec (.feedByte row.2.1) (inState row.1))).map (fun t => (t.parserState, t.event)) ==
          some (row.2.2.1, some row.2.2.2)) = true := by decide

/-- P2: F0's last byte commits it; another last byte counts an error. -/
theorem test_feedByte_completes :
    (let t := feedByte 0x9A beforeLastF0
     t.valOf 0 = .rat 2000 ∧ t.valOf 1 = .rat 100 ∧ t.valOf 4 = .rat (-20) ∧ t.valOf 5 = .rat (7 / 2) ∧
     t.valOf 6 = .rat (-2) ∧ t.packetCount = 1 ∧ t.errorCount = 0 ∧ t.newData = true ∧ t.parserState = .seek0) ∧
    (let t := feedByte 0x9B beforeLastF0
     t.errorCount = 1 ∧ t.packetCount = 0 ∧ t.validOf 0 = false ∧ t.connected = false ∧ t.parserState = .seek0) := by
  decide +kernel

/-- V7: 0x304, and the unknown 0x999. -/
theorem test_feedCan_0x304 :
    (let t := feedCan 0x304 ⟨0x52, 0x03, 0x5E, 0x01, 0, 0, 0, 0⟩ 8 canA
     t.valOf 2 = .rat 85 ∧ t.valOf 3 = .rat (7 / 2) ∧ t.response = .bit true ∧ t.connected = true ∧ t.packetCount = 0) ∧
    (feedCan 0x999 ⟨1, 1, 1, 1, 1, 1, 1, 1⟩ 8 canA).response = .bit false := by decide +kernel
/-- V7: 0x300, unsigned, signed and flag fields. -/
theorem test_feedCan_0x300 :
    (let t := feedCan 0x300 ⟨0xFF, 0xFF, 0, 0x80, 0, 0x80, 0xA5, 0⟩ 8 canA
     t.valOf 16 = .rat 65535 ∧ t.valOf 17 = .rat 32768 ∧ t.valOf 18 = .rat (-32768) ∧ t.valOf 19 = .int 165) := by
  decide +kernel

/-- V8: INIT in the middle of a frame. -/
theorem test_init_mid_frame :
    (nextOf (exec .init { beforeLast with errorCount := 3, newData := true })).map
      (fun t => (t.parserState, t.rxCount, t.bufRead 3, t.errorCount, t.newData)) =
      some (.seek0, 0, 0, 0, false) := by decide

/-- V8: read and clear. -/
theorem test_hasNewData :
    (nextOf (exec .hasNewData { uartA with newData := true })).map (fun t => (t.response, t.newData)) =
      some (.bit true, false) := by decide

/-- W4: after reset `rpm` reads NaN, the flag channel `ex_s1a` reads 0. -/
theorem test_getSnapshot_after_reset :
    (uartA.snapshot.ch.take 1, (uartA.snapshot.ch.drop 7).take 1, uartA.snapshot.connected) =
      ([(0, .nan)], [(7, .int 0)], false) := by decide

/-- The host's entry point runs what it is given: `FEED_BYTE 0x55` (from R120's example), and the CAN port's
transaction on a block that has that port. -/
theorem test_withFetchWord :
    (nextOf (step (State.reset.withFetchWord 16 0x2A9))).map (·.parserState) = some .seek1 ∧
    (nextOf (step (State.reset.withFetchWord 8 0))).isSome = true ∧
    (nextOf (step (State.reset.withFetchWord 115 2))).map (·.response) = some (.bit false) ∧
    (nextOf (step (State.reset.withFetchWord 8 3))).map (·.response) = some (.bit false) ∧
    (nextOf (step (State.reset.withFetchWord 8 4))).isSome = true := by decide

/-! ## Witnesses -/

theorem witness_RequestWordIsReadByItsLayout :
    (0 : Request).toNat % 8 = 0 ∧ (0x2A9 : Request).toNat % 8 = 1 ∧ (2 : Request).toNat % 8 = 2 ∧
    (3 : Request).toNat % 8 = 3 ∧ (4 : Request).toNat % 8 = 4 ∧ 5 ≤ (5 : Request).toNat % 8 ∧
    5 ≤ (7 : Request).toNat % 8 := by decide

theorem witness_ReservedCodesAreRefused :
    ∃ (s : State) (q : Request) (rest : List Request),
      s.cfg.wellFormed = true ∧ s.requests = q :: rest ∧ 5 ≤ (opField q).toNat :=
  ⟨{ uartA with requests := [5] }, 5, [], by decide, rfl, by decide⟩

theorem witness_StepRunsTheDecodedRequest :
    ∃ (s : State) (q : Request) (rest : List Request) (i : Instr),
      s.cfg.wellFormed = true ∧ s.requests = q :: rest ∧ decode q = .ok i :=
  ⟨{ uartA with requests := [0x2A9, 4] }, 0x2A9, [4], .feedByte 0x55, by decide, rfl, by decide⟩

theorem witness_StepWithoutRequestWaits : ∃ s : State, s.cfg.wellFormed = true ∧ s.requests = [] :=
  ⟨uartA, by decide, rfl⟩

/-- EX passes the nine checks, read from the rule rather than from `Config.wellFormed`. -/
theorem ex_nineChecks : NineChecks ex := by
  have sign : ∀ f ∈ ex.allFields, f.2.2.fitsSign f.2.1 = true := by decide
  have kind : ∀ f ∈ ex.allFields, ∃ k ∈ ex.channels, k.id = f.1 ∧ f.2.2.fitsKind k.kind = true := by decide
  refine ⟨by decide, by decide, by decide, by decide, by decide, by decide, by decide, ?_, ?_⟩
  · intro ch signed k h
    simpa [Transform.fitsSign] using sign _ ((hasField_iff _ _ _ _).mp h)
  · intro ch signed xf h
    obtain ⟨k, hk, hid, hf⟩ := kind _ ((hasField_iff _ _ _ _).mp h)
    refine ⟨k, hk, hid, ?_⟩
    cases xf <;> simpa [Transform.fitsKind] using hf

theorem ex_tableFormats : TableFormats ex := by
  have dens : ∀ f ∈ ex.allFields, f.2.2.formatOk = true := by decide
  refine ⟨by decide, by decide, ?_⟩
  intro ch signed num den add h
  simpa [Transform.formatOk] using dens _ ((hasField_iff _ _ _ _).mp h)

theorem witness_CheckedConfigIsNotRefused : ∃ s : State, NineChecks s.cfg ∧ TableFormats s.cfg :=
  ⟨uartA, ex_nineChecks, ex_tableFormats⟩

theorem witness_EveryAdmittedTransactionCompletes :
    ∃ (s c : State), s.cfg.wellFormed = true ∧ c.cfg.wellFormed = true ∧
      s.requests = [0x2A9] ∧ decode 0x2A9 = .ok (.feedByte 0x55) ∧ (Instr.feedByte 0x55).wellFormed s.cfg = true ∧
      c.requests = [2] ∧ decode 2 = .ok (.feedCan 0 ⟨0, 0, 0, 0, 0, 0, 0, 0⟩ 0) ∧
      (Instr.feedCan 0 ⟨0, 0, 0, 0, 0, 0, 0, 0⟩ 0).wellFormed c.cfg = true :=
  ⟨{ uartA with requests := [0x2A9] }, { canA with requests := [2] }, by decide, by decide, rfl, by decide, by decide,
    rfl, by decide, by decide⟩

theorem witness_DisabledPortIsRefused : uartA.cfg.transport = .uart ∧ canA.cfg.transport = .can := ⟨rfl, rfl⟩

theorem witness_StepKeepsTheConfiguration : ∃ s t : State, step s = .next t := ⟨uartA, uartA, by rfl⟩

theorem witness_RunOfRequestsIsExecutionInOrder :
    ∃ (is : List Instr) (s : State), s.cfg.wellFormed = true ∧ s.requests = is.map encode :=
  ⟨[.init, .feedByte 0x55], { uartA with requests := [0, 0x2A9] }, by decide, by decide⟩

theorem witness_BothPortsActAsEachAlone : ∃ s : State, s.cfg.transport = .both :=
  ⟨State.powerOn (Config.ex .both .candA), rfl⟩

theorem witness_PowerOnEqualsInit : ∃ s : State, s.cfg = State.reset.cfg ∧ s.requests = [] ∧ s.errorCount = 7 :=
  ⟨{ State.reset with errorCount := 7 }, rfl, rfl, rfl⟩

/-- A float channel that is valid, one that is not, and a flag channel. -/
theorem witness_GetSnapshotAnswersTheStore :
    ∃ s : State, s.cfg.channels[0]? = some ⟨0, .float⟩ ∧ s.validOf 0 = true ∧
      s.cfg.channels[1]? = some ⟨1, .float⟩ ∧ s.validOf 1 = false ∧
      s.cfg.channels[7]? = some ⟨7, .flags⟩ ∧ ChanKind.flags ≠ .float :=
  ⟨uartA.writeChannel 0 (.rat 2000), by decide, by decide, by decide, by decide, by decide, by decide⟩

theorem witness_HasNewDataReadsAndClears :
    ∃ (is : List Instr) (s t : State), (∀ i ∈ is, i ≠ .init ∧ i ≠ .hasNewData) ∧ execAll is s = .next t ∧
      0 < successes is s := ⟨[.feedByte 0x10], beforeLast, _, by decide, rfl, by decide⟩

theorem witness_NewDataIsDeliveredOnceCoalesced :
    ∃ (is : List Instr) (s t : State), (∀ i ∈ is, i ≠ .init ∧ i ≠ .hasNewData) ∧
      execAll (is ++ [.hasNewData]) s = .next t ∧ successes is s = 1 :=
  ⟨[.feedByte 0x10], beforeLast, _, by decide, rfl, by decide⟩

theorem witness_HeaderSearchReevaluates :
    (inState .seek0).cfg.transport.hasUart = true ∧ (inState .seek0).parserState = .seek0 ∧
    (inState .seek1).parserState = .seek1 ∧ (inState .seek2).parserState = .seek2 ∧
    (inState .seek3).parserState = .seek3 ∧
    (ParserState.seek1, (0x00 : Byte), ParserState.seek2) ∈
      [(.seek1, 0x00, .seek2), (.seek2, 0xAA, .seek3), (.seek3, 0x00, .seekVersion)] := by decide

/-- A match, a mismatch that is re-evaluated, and a mismatch where `VERSION_REEVAL` is false. -/
theorem witness_VersionByteMustMatch :
    (inState .seekVersion).cfg.transport.hasUart = true ∧ (inState .seekVersion).parserState = .seekVersion ∧
    (0x01 : Byte) = (inState .seekVersion).cfg.protoVersion ∧ (0x55 : Byte) ≠ (inState .seekVersion).cfg.protoVersion ∧
    (inState .seekVersion).cfg.versionReeval = true ∧
    (let s : State := { inState .seekVersion with cfg := { ex with versionReeval := false } }
     s.cfg.transport.hasUart = true ∧ s.parserState = .seekVersion ∧ (0x55 : Byte) ≠ s.cfg.protoVersion ∧
     s.cfg.versionReeval = false) := by decide

theorem witness_LengthOutOfRangeIsDropped :
    (inState .readLength).cfg.transport.hasUart = true ∧ (inState .readLength).parserState = .readLength ∧
    (3 : Byte).toNat < 4 ∧ 48 < (49 : Byte).toNat := by decide

theorem witness_AcceptedLengthOpensTheFrame :
    (inState .readLength).cfg.transport.hasUart = true ∧ (inState .readLength).parserState = .readLength ∧
    (inState .readLength).buf.wf = true ∧ 4 ≤ (4 : Byte).toNat ∧ (48 : Byte).toNat ≤ 48 ∧
    0 < (inState .readLength).cfg.bufCap ∧
    ({ (inState .readLength) with cfg := { ex with bufCap := 0 } } : State).cfg.bufCap = 0 := by decide

/-- A state for each tag, and an identifier in the table and one outside it. -/
theorem witness_EventTagsNameTheArm :
    (inState .seek0).parserState = .seek0 ∧ (inState .seek0).cfg.transport.hasUart = true ∧
    (ParserState.seekVersion, (0x01 : Byte)) ∈ [(ParserState.seek1, (0x00 : Byte)), (.seek2, 0xAA), (.seek3, 0x00),
      (.seekVersion, (inState .seekVersion).cfg.protoVersion)] ∧
    (inState .seekVersion).parserState = .seekVersion ∧ (inState .readLength).parserState = .readLength ∧
    (inBody 4 3 0 0 []).parserState = .readBody ∧ (inBody 4 3 0 0 []).rxCount ≠ (inBody 4 3 0 0 []).frameLen ∧
    beforeLast.completes ∧ beforeLast.crcMatches 0x10 ∧ ¬ beforeLast.crcMatches 0x11 ∧
    canA.cfg.transport.hasCan = true ∧ (∃ E ∈ canA.cfg.canTable, E.id = 0x304) ∧
    ∀ E ∈ canA.cfg.canTable, E.id ≠ 0x999 := by
  refine ⟨rfl, by decide, by decide, rfl, rfl, rfl, by decide, ⟨rfl, rfl⟩, ?_, ?_, by decide, by decide, by decide⟩ <;>
    unfold State.crcMatches <;> decide

/-- The last covered byte (index `frame_len - 2`), the CRC low byte (index `frame_len - 1`), and a byte the buffer
does not reach. -/
theorem witness_BodyByteIsStoredAndCovered :
    (let s := inBody 4 2 0 0 [(0, 4)]
     s.cfg.transport.hasUart = true ∧ s.parserState = .readBody ∧ s.buf.wf = true ∧ s.rxCount ≠ s.frameLen ∧
     (s.rxCount.toNat : Int) ≤ s.frameLen.toNat - 2 ∧ s.rxCount.toNat < s.cfg.bufCap) ∧
    (let s := inBody 4 3 0 0 [(0, 4)]
     s.rxCount ≠ s.frameLen ∧ ¬ (s.rxCount.toNat : Int) ≤ s.frameLen.toNat - 2 ∧
     (s.rxCount.toNat : Int) = s.frameLen.toNat - 1) ∧
    (let s := { inBody 20 8 0 0 [(0, 20)] with cfg := { ex with bufCap := 8 } }
     s.rxCount ≠ s.frameLen ∧ s.cfg.bufCap ≤ s.rxCount.toNat) := by decide

theorem commits_beforeLast : Commits 0x10 beforeLast := ⟨by decide, ⟨rfl, rfl⟩, by unfold State.crcMatches; decide⟩
theorem commits_beforeLastF0 : Commits 0x9A beforeLastF0 :=
  ⟨by decide, ⟨rfl, rfl⟩, by unfold State.crcMatches; decide⟩

theorem witness_MatchingCrcCommitsTheFrame : ∃ (s : State) (b : Byte), Commits b s ∧ s.buf.wf = true :=
  ⟨beforeLast, 0x10, commits_beforeLast, by decide⟩

theorem witness_CrcMismatchOnlyCountsAnError :
    ∃ (s : State) (b : Byte), s.cfg.transport.hasUart = true ∧ s.completes ∧ ¬ s.crcMatches b ∧ s.buf.wf = true :=
  ⟨beforeLast, 0x11, by decide, ⟨rfl, rfl⟩, by unfold State.crcMatches; decide, by decide⟩

/-- The invariant holds of a state whose channels are all fresh, given its parser part. -/
theorem inv_of_fresh {s : State} (hc : s.chans = freshChans s.cfg.channels)
    (ids : noRepeats (s.cfg.channels.map (·.id)) = true) (frame : s.parserState = .readBody → FrameOpen s)
    (idle : s.parserState ≠ .readBody → s.rxCount = 0) (form : s.buf.wf = true)
    (range : s.buf.within s.cfg.bufCap = true) (quiet : s.newData = false)
    (count : s.packetCount ≠ 0 → s.connected = true) : Inv s := by
  refine ⟨frame, idle, form, range, by rw [hc, freshChans_ids], ?_, ?_, ?_, by simp [quiet], count⟩
  · intro c h
    rw [valOf_fresh hc ids h]
    cases c.kind <;> simp [Val.zero, Val.hasKind]
  · exact fun c h _ => valOf_fresh hc ids h
  · intro c h
    rw [validOf_fresh hc] at h
    cases h

theorem inv_beforeLast : Inv beforeLast := by
  refine inv_of_fresh rfl (by decide) (fun _ => ?_) (fun h => absurd rfl h) (by decide) (by decide) rfl (by decide)
  exact ⟨by decide, by decide, by decide, by decide, fun _ => rfl, fun _ => by decide, fun _ _ => rfl⟩

theorem inv_beforeLast_later : Inv { beforeLast with packetCount := 7, connected := true } := by
  refine inv_of_fresh rfl (by decide) (fun _ => ?_) (fun h => absurd rfl h) (by decide) (by decide) rfl (by decide)
  exact ⟨by decide, by decide, by decide, by decide, fun _ => rfl, fun _ => by decide, fun _ _ => rfl⟩

theorem inv_canA : Inv canA :=
  inv_of_fresh rfl (by decide) (fun h => absurd h (by decide)) (fun _ => rfl) (by decide) (by decide) rfl (by decide)

/-- The entry `tps`, between `rpm` and `ex_f2`. -/
theorem witness_FastFieldsAreDecoded :
    ∃ (s : State) (b : Byte) (before after : List FieldEntry) (e : FieldEntry),
      Commits b s ∧ Inv s ∧ s.cfg.wellFormed = true ∧ s.cfg.fastTable = before ++ e :: after ∧
      (∀ e' ∈ after, e'.ch ≠ e.ch) ∧ Available s e.off e.width :=
  ⟨beforeLast, 0x10, [rpmEntry 2], [{ ch := 4, off := 5, width := 2, signed := true, xf := .lin 1 10 0 }], tpsEntry 4,
    commits_beforeLast, inv_beforeLast, by decide, rfl, by decide, .inl rfl⟩

/-- Under STALE the unwritten selector byte selects slot 0, whose first entry is `ex_s0a` (V6). -/
theorem witness_SelectedSlotIsDecoded :
    ∃ (s : State) (b : Byte) (slot before after : List FieldEntry) (e : FieldEntry),
      Commits b s ∧ Inv s ∧ s.cfg.wellFormed = true ∧ Available s s.cfg.selOff 1 ∧
      ((s.atCommit b).bufRead s.cfg.selOff).toNat < 10 ∧
      s.cfg.slowTable[((s.atCommit b).bufRead s.cfg.selOff).toNat]? = some slot ∧ slot = before ++ e :: after ∧
      (∀ e' ∈ after, e'.ch ≠ e.ch) ∧ Available s (s.cfg.selOff + 1 + e.off) e.width :=
  ⟨beforeLast, 0x10, _, [], [{ ch := 6, off := 2, width := 1, signed := true, xf := .lin 1 1 0 }],
    { ch := 5, off := 0, width := 2, signed := false, xf := .lin 1 100 0 },
    commits_beforeLast, inv_beforeLast, by decide, .inl rfl, by decide, rfl, rfl, by decide, .inl rfl⟩

/-- A selector byte of 10, the least that selects nothing, left by an earlier frame. -/
theorem witness_UnknownSelectorStillCommits :
    ∃ (s : State) (b : Byte), Commits b s ∧ 10 ≤ ((s.atCommit b).bufRead s.cfg.selOff).toNat :=
  ⟨inBody 4 4 0x105C 0x5C [(0, 4), (3, 0x5C), (7, 10)], 0x10,
    ⟨by decide, ⟨rfl, rfl⟩, by unfold State.crcMatches; decide⟩, by decide⟩

theorem witness_SlotChangesOnlyUnderItsSelector :
    ∃ (i : Instr) (s t : State) (k : Nat) (slot : List FieldEntry) (e : FieldEntry),
      s.cfg.transport = .uart ∧ s.cfg.wellFormed = true ∧ s.cfg.slowTable[k]? = some slot ∧ e ∈ slot ∧
      exec i s = .next t ∧ i ≠ .init ∧ (t.valOf e.ch ≠ s.valOf e.ch ∨ t.validOf e.ch ≠ s.validOf e.ch) :=
  ⟨.feedByte 0x10, beforeLast, feedByte 0x10 beforeLast, 0, _,
    { ch := 5, off := 0, width := 2, signed := false, xf := .lin 1 100 0 }, rfl, by decide, rfl, by decide, rfl,
    by decide, .inr (by decide)⟩

/-- Under SKIP: `ex_f2` in a frame of length 4, whose selector is not available either; and `ex_s0a` in a frame of
length 9, whose selector is the last covered byte. -/
theorem witness_UnavailableFieldsAreNotWritten :
    (let s := withSkip beforeLast
     Commits 0x10 s ∧ (∀ e ∈ s.cfg.fastTable, e.ch = 4 → ¬ Available s e.off e.width) ∧
     ¬ Available s s.cfg.selOff 1) ∧
    (let s := withSkip (inBody 9 9 0x105C 0x5C [])
     Commits 0x10 s ∧ (∀ e ∈ s.cfg.fastTable, e.ch = 5 → ¬ Available s e.off e.width) ∧ Available s s.cfg.selOff 1 ∧
     ∀ slot ∈ s.cfg.slowTable, ∀ e ∈ slot, e.ch = 5 → ¬ Available s (s.cfg.selOff + 1 + e.off) e.width) := by
  refine ⟨⟨⟨by decide, ⟨rfl, rfl⟩, by unfold State.crcMatches; decide⟩, ?_, ?_⟩,
    ⟨⟨by decide, ⟨rfl, rfl⟩, by unfold State.crcMatches; decide⟩, ?_, ?_, ?_⟩⟩ <;> unfold Available <;> decide

theorem slotCommitted_beforeLast : SlotCommitted 0 [.feedByte 0x10] beforeLast :=
  .here 0x10 [] beforeLast commits_beforeLast (.inl rfl) (by decide) (fun _ _ _ _ => .inl rfl)

theorem witness_CommittedSlotsStayValid :
    ∃ (is : List Instr) (s t : State) (k : Nat) (slot : List FieldEntry) (e : FieldEntry),
      Inv s ∧ s.cfg.wellFormed = true ∧ execAll is s = .next t ∧ .init ∉ is ∧ SlotCommitted k is s ∧
      s.cfg.slowTable[k]? = some slot ∧ e ∈ slot :=
  ⟨[.feedByte 0x10], beforeLast, _, 0, _, { ch := 6, off := 2, width := 1, signed := true, xf := .lin 1 1 0 },
    inv_beforeLast, by decide, rfl, by decide, slotCommitted_beforeLast, rfl, by decide⟩

theorem witness_FastValuesDependOnlyOnTheFastBytes :
    ∃ (s s' : State) (b b' : Byte), Commits b s ∧ Commits b' s' ∧ Inv s ∧ Inv s' ∧ s'.cfg = s.cfg ∧
      s.cfg.wellFormed = true ∧ s' ≠ s ∧
      (∀ e ∈ s.cfg.fastTable, Available s e.off e.width ∧ Available s' e.off e.width ∧
        ∀ k, k < e.width → (s'.atCommit b').bufRead (e.off + k) = (s.atCommit b).bufRead (e.off + k)) :=
  ⟨beforeLast, { beforeLast with packetCount := 7, connected := true }, 0x10, 0x10, commits_beforeLast,
    ⟨by decide, ⟨rfl, rfl⟩, commits_beforeLast.crc⟩, inv_beforeLast, inv_beforeLast_later, rfl, by decide,
    fun h => absurd (congrArg State.connected h) (by decide), fun _ _ => ⟨.inl rfl, .inl rfl, fun _ _ => rfl⟩⟩

/-- Signed bytes at the two ends of their ranges. -/
theorem witness_RawFieldsAreLittleEndian :
    128 ≤ (0x80 : Byte).toNat ∧ ¬ 128 ≤ (0x7F : Byte).toNat := by decide

theorem witness_TransformsAreExact : 0 < 255 ∧ (0 : Int) = 0 ∧ (5000 : Int) ≠ 0 := by decide

/-- At the boundary `2^128 - 2^103` and its negative the rendering is not finite, one below it is. -/
theorem witness_RenderingIsNearestTiesToEven :
    isFinite32 (renderNearestEven 85) ∧ isFinite32 (renderNearestEven (2 ^ 128 - 2 ^ 103 - 1)) ∧
    |(2 ^ 128 - 2 ^ 103 - 1 : Rat)| < 2 ^ 128 - 2 ^ 103 ∧
    ¬ isFinite32 (renderNearestEven (2 ^ 128 - 2 ^ 103)) ∧ (2 ^ 128 - 2 ^ 103 : Rat) ≤ 2 ^ 128 - 2 ^ 103 ∧
    ¬ isFinite32 (renderNearestEven (-(2 ^ 128 - 2 ^ 103))) ∧ -(2 ^ 128 - 2 ^ 103 : Rat) ≤ -(2 ^ 128 - 2 ^ 103) := by
  refine ⟨?_, ?_, by norm_num, ?_, le_refl _, ?_, le_refl _⟩ <;> unfold isFinite32 <;> decide +kernel

theorem witness_UnknownCanIdChangesNothing :
    canA.cfg.transport.hasCan = true ∧ ∀ E ∈ canA.cfg.canTable, E.id ≠ 0x999 := by decide

/-- Identifier 0x304; with the length check and `dlc = 1`, `oil_temp` lies beyond the code. -/
theorem witness_KnownCanIdIsRecognised :
    canA.cfg.transport.hasCan = true ∧ canA.cfg.wellFormed = true ∧
    (⟨canId304, [oilTempField 0 true, oilPressureField 2 false]⟩ : CanEntry) ∈ canA.cfg.canTable ∧
    (let s : State := { canA with cfg := { canA.cfg with canDlcCheck := true } }
     s.cfg.wellFormed = true ∧ s.cfg.canDlcCheck = true ∧ (1 : Byte).toNat < (oilTempField 0 true).off + 2) := by decide

theorem witness_CanFieldsAreDecoded :
    ∃ (s : State) (E : CanEntry) (before after : List CanField) (f : CanField),
      s.cfg.transport.hasCan = true ∧ Inv s ∧ s.cfg.wellFormed = true ∧ E ∈ s.cfg.canTable ∧
      E.fields = before ++ f :: after ∧ (∀ f' ∈ after, f'.ch ≠ f.ch) ∧
      (s.cfg.canDlcCheck = false ∨ f.off + 2 ≤ (2 : Byte).toNat) ∧ f.off + 2 ≤ (2 : Byte).toNat :=
  ⟨canA, ⟨canId304, [oilTempField 0 true, oilPressureField 2 false]⟩, [], [oilPressureField 2 false], oilTempField 0 true,
    by decide, inv_canA, by decide, by decide, rfl, by decide, .inl rfl, by decide⟩

theorem witness_DataLengthCodeAboveEightActsAsEight :
    canA.cfg.canDlcCheck = false ∧ canA.cfg.wellFormed = true ∧ 8 ≤ (8 : Byte).toNat ∧ 8 ≤ (255 : Byte).toNat := by decide

theorem witness_FeedCanIsIndependentOfTheFramer :
    ∃ s s' : State, s.cfg.transport.hasCan = true ∧ s' ≠ s ∧
      s' = { s with parserState := s'.parserState, frameLen := s'.frameLen, rxCount := s'.rxCount,
                    crcAcc := s'.crcAcc, crcRxLo := s'.crcRxLo, buf := s'.buf } :=
  ⟨canA, { canA with parserState := .seek1 }, by decide,
    fun h => absurd (congrArg State.parserState h) (by decide), rfl⟩

/-- A success, an unsuccessful byte, and a read. -/
theorem witness_FlagsAreTouchedOnlyAsTheTableSays :
    (∃ t, exec (.feedByte 0x10) beforeLast = .next t ∧ isSuccess t.event = true) ∧
    (∃ t, exec (.feedByte 0x11) beforeLast = .next t ∧ isSuccess t.event = false) ∧
    (∃ t, exec .hasNewData uartA = .next t ∧ isSuccess t.event = false) :=
  ⟨⟨_, rfl, by decide⟩, ⟨_, rfl, by decide⟩, ⟨_, rfl, by decide⟩⟩

/-- A commit at the counter's last value (V8), a CRC error, and a byte that completes nothing. -/
theorem witness_CountersCountFrames :
    (∃ (s : State) (b : Byte) (t : State), s.packetCount = 0xFFFFFFFF ∧ exec (.feedByte b) s = .next t ∧ s.completes ∧
      s.crcMatches b) ∧
    (∃ (s : State) (b : Byte) (t : State), exec (.feedByte b) s = .next t ∧ s.completes ∧ ¬ s.crcMatches b) ∧
    (∃ (s : State) (b : Byte) (t : State), exec (.feedByte b) s = .next t ∧ ¬ s.completes) :=
  ⟨⟨{ beforeLast with packetCount := 0xFFFFFFFF }, 0x10, _, rfl, rfl, ⟨rfl, rfl⟩, by unfold State.crcMatches; decide⟩,
   ⟨beforeLast, 0x11, _, rfl, ⟨rfl, rfl⟩, by unfold State.crcMatches; decide⟩,
   ⟨uartA, 0x55, _, rfl, fun h => absurd h.1 (by decide)⟩⟩

theorem witness_PartialInputLeavesTheStore :
    ∃ (bs : List Byte) (s : State), s.cfg.transport.hasUart = true ∧ neverCompletes bs s ∧ bs ≠ [] :=
  ⟨[0x55, 0x00], uartA, by decide, ⟨fun h => absurd h.1 (by decide), fun h => absurd h.1 (by decide), trivial⟩,
    by decide⟩

/-- A searching state of either kind, a length state, and a body with exactly four bytes to go. -/
theorem witness_HeaderIsFoundFromEverySearchingState :
    (inState .seek0).searching ∧ (inState .seekVersion).searching ∧ (inState .readLength).parserState = .readLength ∧
    (inBody 6 2 0 0 []).parserState = .readBody ∧
    (inBody 6 2 0 0 []).rxCount.toNat + 4 ≤ (inBody 6 2 0 0 []).frameLen.toNat :=
  ⟨.inl rfl, .inr (.inr (.inr (.inr ⟨rfl, rfl, by decide⟩))), rfl, rfl, by decide⟩

/-- The minimal and the maximal frame; a trailer that is the CRC and one that is not. -/
theorem witness_FrameCommitsExactlyWhenItsCrcMatches :
    (inState .readLength).cfg.transport.hasUart = true ∧ (inState .readLength).buf.wf = true ∧
    (inState .readLength).parserState = .readLength ∧
    4 ≤ (4 : Byte).toNat ∧ ([0, 0] : List Byte).length + 2 = (4 : Byte).toNat ∧
    (crcOf (crcUpdate (inState .readLength).cfg.crcUpdate) [4, 0, 0]).toNat = (0x5C : Byte).toNat + 256 * (0x10 : Byte).toNat ∧
    (crcOf (crcUpdate (inState .readLength).cfg.crcUpdate) [4, 0, 0]).toNat ≠ (0x5C : Byte).toNat + 256 * (0x11 : Byte).toNat ∧
    (48 : Byte).toNat ≤ 48 ∧ (List.replicate 46 (0 : Byte)).length + 2 = (48 : Byte).toNat := by decide

theorem witness_ValidFrameIsDecodedOnce :
    uartA.cfg.transport.hasUart = true ∧ uartA.searching ∧ 4 ≤ (4 : Byte).toNat ∧ (4 : Byte).toNat ≤ 48 ∧
    ([0, 0] : List Byte).length + 2 = (4 : Byte).toNat := ⟨by decide, .inl rfl, by decide, by decide, by decide⟩

/-! The law of R131 for candidate A, so that a hypothesis of it is met: its four mixing steps lose nothing. -/

/-- Candidate A's first step: the bytes change places. -/
def swapBytes (c : Half) : Half := (c >>> 8) ||| (c <<< 8)
def mix1 (c : Half) : Half := c ^^^ ((c &&& 0x00FF) >>> 4)
def mix2 (c : Half) : Half := c ^^^ (c <<< 12)
def mix3 (c : Half) : Half := c ^^^ ((c &&& 0x00FF) <<< 5)
def mix4 (c : Half) : Half := c ^^^ ((c &&& 0x0007) <<< 10)

theorem swapBytes_twice (c : Half) : swapBytes (swapBytes c) = c := by
  apply BitVec.eq_of_getLsbD_eq
  intro i hi
  interval_cases i <;> simp [swapBytes]
theorem mix1_twice (c : Half) : mix1 (mix1 c) = c := by
  apply BitVec.eq_of_getLsbD_eq
  intro i hi
  interval_cases i <;> simp [mix1]
theorem mix2_twice (c : Half) : mix2 (mix2 c) = c := by
  apply BitVec.eq_of_getLsbD_eq
  intro i hi
  interval_cases i <;> simp [mix2]
theorem mix4_twice (c : Half) : mix4 (mix4 c) = c := by
  apply BitVec.eq_of_getLsbD_eq
  intro i hi
  interval_cases i <;> simp [mix4]
theorem mix3_twice (c : Half) : mix3 (mix3 c) = mix4 c := by
  apply BitVec.eq_of_getLsbD_eq
  intro i hi
  interval_cases i <;> simp [mix3, mix4]

theorem crcCandA_eq (c : Half) (d : Byte) : crcCandA c d = mix3 (mix2 (mix1 (swapBytes c ^^^ d.setWidth 16))) := rfl

theorem crcCandA_cancel {c c' : Half} {d d' : Byte} (h : crcCandA c d = crcCandA c' d') :
    swapBytes c ^^^ d.setWidth 16 = swapBytes c' ^^^ d'.setWidth 16 := by
  rw [crcCandA_eq, crcCandA_eq] at h
  have h4 := congrArg mix3 h
  rw [mix3_twice, mix3_twice] at h4
  have h2 := congrArg mix4 h4
  rw [mix4_twice, mix4_twice] at h2
  have h1 := congrArg mix2 h2
  rw [mix2_twice, mix2_twice] at h1
  have h0 := congrArg mix1 h1
  rwa [mix1_twice, mix1_twice] at h0

theorem xor_cancel {a b c : Half} (h : a ^^^ b = a ^^^ c) : b = c := by
  have := congrArg (a ^^^ ·) h
  simpa [← BitVec.xor_assoc] using this

theorem crcCandA_detects : DetectsSingleBitErrors crcCandA := by
  refine detectsSingleBitErrors_of_injective _ ?_ ?_
  · intro d c c' h
    have := congrArg swapBytes (xor_cancel (by simpa only [BitVec.xor_comm] using crcCandA_cancel h))
    rwa [swapBytes_twice, swapBytes_twice] at this
  · intro c d d' h
    have := congrArg (BitVec.setWidth 8) (xor_cancel (crcCandA_cancel h))
    simpa using this

theorem witness_SingleBitErrorIsRejected :
    ∃ (s : State) (len : Byte) (body : List Byte) (k j : Nat),
      DetectsSingleBitErrors (crcUpdate s.cfg.crcUpdate) ∧ s.cfg.transport.hasUart = true ∧ s.searching ∧
      4 ≤ len.toNat ∧ len.toNat ≤ 48 ∧ body.length + 2 = len.toNat ∧ k < body.length ∧ j < 8 :=
  ⟨uartA, 4, [0, 0], 1, 7, crcCandA_detects, by decide, .inl rfl, by decide, by decide, by decide, by decide, by decide⟩

theorem witness_ConsumerNeverDisturbsDecoding :
    ∃ (is : List Instr) (s t : State), execAll is s = .next t ∧ (is.filter fun i => !isConsumer i) ≠ is :=
  ⟨[.feedByte 0x55, .hasNewData, .getSnapshot], uartA, _, rfl, by decide⟩

theorem witness_EveryStepKeepsTheInvariant : ∃ s t : State, Inv s ∧ step s = .next t :=
  ⟨canA, canA, inv_canA, by rfl⟩

end Sys2Proof.Tests
end

section
/-! # The scope family (00_scope.md): what the checks of R9 say, and when a step is refused as BAD_CONFIG

Each Bool check is the rule's sentence; together they are `NineChecks` and `TableFormats` (`wellFormed_iff`).
A step answers BAD_CONFIG exactly where they fail (`step_eq_badConfig_iff`). O7 and O8 follow from it. -/

namespace Sys2Proof.Machine

variable {c : Config}

/-! ## The checks, one by one (R9) -/

theorem widthOk_iff (w : Nat) : widthOk w = true ↔ w = 1 ∨ w = 2 := by simp [widthOk]

theorem check2_iff : c.check2 = true ↔
    ∀ e ∈ c.fastTable, (e.width = 1 ∨ e.width = 2) ∧ 2 ≤ e.off ∧ e.off + e.width ≤ c.bufCap := by
  simp [Config.check2, widthOk_iff, and_assoc]

theorem check3_iff : c.check3 = true ↔ 2 ≤ c.selOff ∧ c.selOff < c.bufCap := by simp [Config.check3]

theorem check4_iff : c.check4 = true ↔ ∀ slot ∈ c.slowTable, ∀ e ∈ slot,
    (e.width = 1 ∨ e.width = 2) ∧ e.off + e.width ≤ slotLen ∧ c.selOff + 1 + e.off + e.width ≤ c.bufCap := by
  simp [Config.check4, widthOk_iff, and_assoc]

theorem disjointChans_writtenBy_iff (es es' : List FieldEntry) :
    disjointChans (writtenBy es) (writtenBy es') = true ↔ ∀ e ∈ es, ∀ e' ∈ es', e.ch ≠ e'.ch := by
  suffices h : disjointChans (writtenBy es) (writtenBy es') = true ↔ ∀ e ∈ es, ∀ e' ∈ es', e'.ch ≠ e.ch by
    simpa only [ne_comm] using h
  simp [disjointChans, writtenBy]

theorem check6_iff : c.check6 = true ↔
    ∀ e ∈ c.fastTable, ∀ slot ∈ c.slowTable, ∀ e' ∈ slot, e.ch ≠ e'.ch := by
  simp only [Config.check6, List.all_eq_true, disjointChans_writtenBy_iff]
  exact ⟨fun h e he slot hs => h slot hs e he, fun h slot hs e he => h e he slot hs⟩

theorem check7_iff : c.check7 = true ↔ (c.canTable.map (·.id)).Nodup ∧ ∀ E ∈ c.canTable,
    2 ≤ E.fields.length ∧ E.fields.length ≤ 4 ∧ ∀ f ∈ E.fields, f.off = 0 ∨ f.off = 2 ∨ f.off = 4 ∨ f.off = 6 := by
  simp [Config.check7, noRepeats_iff, and_assoc]

/-- A property of every element of `allFields` is a property of every field of the three tables. -/
theorem allFields_all_iff (p : Nat × Bool × Transform → Bool) :
    c.allFields.all p = true ↔ ∀ ch signed xf, HasField c ch signed xf → p (ch, signed, xf) = true := by
  simp only [List.all_eq_true, Prod.forall, hasField_iff]

theorem check8_iff : c.check8 = true ↔ ∀ ch signed k, HasField c ch signed (.recip k) → signed = false := by
  rw [Config.check8, allFields_all_iff]
  constructor
  · intro h ch signed k hf
    simpa [Transform.fitsSign] using h ch signed _ hf
  · intro h ch signed xf hf
    cases xf with
    | lin num den add => rfl
    | recip k => simp [Transform.fitsSign, h ch signed k hf]
    | int => rfl

/-- Where no id repeats, `kindOf` answers the kind of the one channel with that id. -/
theorem kindOf_eq_some_iff (hids : (c.channels.map (·.id)).Nodup) (ch : Nat) (k : ChanKind) :
    c.kindOf ch = some k ↔ ∃ x ∈ c.channels, x.id = ch ∧ x.kind = k := by
  refine ⟨kindOf_some c ch k, ?_⟩
  rintro ⟨x, hx, rfl, rfl⟩
  obtain ⟨y, hy⟩ : ∃ y, c.channels.find? (fun z => z.id == x.id) = some y :=
    Option.isSome_iff_exists.mp (List.find?_isSome.mpr ⟨x, hx, by simp⟩)
  have hyx : y = x :=
    eq_of_id_eq ((noRepeats_iff _).mpr hids) (List.mem_of_find?_eq_some hy) hx (by simpa using List.find?_some hy)
  rw [Config.kindOf, hy, hyx, Option.map_some]

theorem check9_iff (hids : (c.channels.map (·.id)).Nodup) : c.check9 = true ↔
    ∀ ch signed xf, HasField c ch signed xf → ∃ k ∈ c.channels, k.id = ch ∧ xf.fitsKind k.kind = true := by
  rw [Config.check9, allFields_all_iff]
  refine forall_congr' fun ch => forall_congr' fun signed => forall_congr' fun xf => imp_congr_right fun _ => ?_
  constructor
  · intro h
    split at h
    · next kind hkind =>
      obtain ⟨k, hk, hid, rfl⟩ := kindOf_some c ch kind hkind
      exact ⟨k, hk, hid, h⟩
    · cases h
  · rintro ⟨k, hk, hid, hfit⟩
    simpa only [(kindOf_eq_some_iff hids ch k.kind).mpr ⟨k, hk, hid, rfl⟩] using hfit

/-- `LIN` alone has a format to check (R101). -/
theorem formatsOk_iff : c.formatsOk = true ↔ TableFormats c := by
  simp only [Config.formatsOk, Bool.and_eq_true, decide_eq_true_eq, noRepeats_iff, allFields_all_iff]
  constructor
  · rintro ⟨⟨hids, hslots⟩, hfmt⟩
    refine ⟨hids, hslots, fun ch signed num den add hf => ?_⟩
    simpa [Transform.formatOk] using hfmt ch signed _ hf
  · rintro ⟨hids, hslots, hdens⟩
    refine ⟨⟨hids, hslots⟩, fun ch signed xf hf => ?_⟩
    cases xf with
    | lin num den add => simpa [Transform.formatOk] using hdens ch signed num den add hf
    | recip k => rfl
    | int => rfl

/-! ## The checks together -/

/-- The nine Bool checks, under distinct channel ids (without them check 9 would read the first channel alone). -/
theorem nineChecks_iff (hids : (c.channels.map (·.id)).Nodup) :
    NineChecks c ↔ c.check1 = true ∧ c.check2 = true ∧ c.check3 = true ∧ c.check4 = true ∧ c.check5 = true ∧
      c.check6 = true ∧ c.check7 = true ∧ c.check8 = true ∧ c.check9 = true := by
  rw [Config.check1, decide_eq_true_iff, check2_iff, check3_iff, check4_iff, Config.check5, pairwiseDisjoint_iff,
    check6_iff, check7_iff, check8_iff, check9_iff hids]
  constructor
  · rintro ⟨h1, h2, h3, h4, h5, h6, h7, h8, h9⟩
    refine ⟨h1, h2, h3, h4, h5, h6, h7, h8, fun ch signed xf hf => ?_⟩
    obtain ⟨k, hk, hid, hkind⟩ := h9 ch signed xf hf
    refine ⟨k, hk, hid, ?_⟩
    cases xf <;> simpa [Transform.fitsKind] using hkind
  · rintro ⟨h1, h2, h3, h4, h5, h6, h7, h8, h9⟩
    refine ⟨h1, h2, h3, h4, h5, h6, h7, h8, fun ch signed xf hf => ?_⟩
    obtain ⟨k, hk, hid, hfit⟩ := h9 ch signed xf hf
    refine ⟨k, hk, hid, ?_⟩
    cases xf <;> simpa [Transform.fitsKind] using hfit

theorem wellFormed_iff : c.wellFormed = true ↔ TableFormats c ∧ NineChecks c := by
  simp only [Config.wellFormed, Bool.and_eq_true, and_assoc, formatsOk_iff]
  exact and_congr_right fun hfmt => (nineChecks_iff hfmt.ids).symm

/-! ## When a step is refused as BAD_CONFIG (R243) -/

/-- A transaction is refused for a missing port alone (R94). -/
theorem exec_ne_badConfig (i : Instr) (s : State) : exec i s ≠ .refused .badConfig := by
  cases i with
  | init => simp [exec, execInit]
  | feedByte b =>
    simp only [exec, execFeedByte]
    split <;> simp [refuse]
  | feedCan id data dlc =>
    simp only [exec, execFeedCan]
    split <;> simp [refuse]
  | hasNewData => simp [exec, execHasNewData]
  | getSnapshot => simp [exec, execGetSnapshot]

theorem step_of_not_wellFormed {s : State} (h : s.cfg.wellFormed ≠ true) : step s = .refused .badConfig := if_neg h

theorem step_ne_badConfig {s : State} (h : s.cfg.wellFormed = true) : step s ≠ .refused .badConfig := by
  rw [step, if_pos h]
  split
  · simp
  · split
    · exact exec_ne_badConfig _ _
    · simp [refuse]

/-- BAD_CONFIG depends on the configuration alone: it is the answer exactly where a check or a format fails. -/
theorem step_eq_badConfig_iff (s : State) :
    step s = .refused .badConfig ↔ ¬ (TableFormats s.cfg ∧ NineChecks s.cfg) := by
  rw [← wellFormed_iff]
  exact ⟨fun hbad hwf => step_ne_badConfig hwf hbad, step_of_not_wellFormed⟩

/-- Settles O7: where BAD_CONFIG is not the answer, the formats and the nine checks hold. -/
theorem stepNeedsTheNineChecks : Obligations.StepNeedsTheNineChecks := by
  intro s
  rw [step_eq_badConfig_iff]
  by_cases h : NineChecks s.cfg
  · exact .inr h
  · exact .inl fun hboth => h hboth.2

/-- Settles O8: the formats and the nine checks are all that BAD_CONFIG depends on. -/
theorem checkedConfigIsNotRefused : Obligations.CheckedConfigIsNotRefused := fun s hnine hfmt hbad =>
  (step_eq_badConfig_iff s).mp hbad ⟨hfmt, hnine⟩

end Sys2Proof.Machine
end

section
/-! # The state family (10_state.md): the invariant, the flags and the counters

The invariant falls apart into a parser part and a store part, and so does every transaction: what a FEED_BYTE does to
the store is said once (`feedByte_storeCase`), and the statements on flags (O44), counters (O45) and the store part of
the invariant (O54) read it off. The parser part turns on one body byte (`FrameOpen.bodyByte`). -/

namespace Sys2Proof.Machine

variable {s t : State} {b : Byte}

/-! ## What a transaction does to the store part -/

/-- The store part (R20) is the same, register by register. -/
structure KeepsStore (s t : State) : Prop where
  chans : t.chans = s.chans
  connected : t.connected = s.connected
  packetCount : t.packetCount = s.packetCount
  errorCount : t.errorCount = s.errorCount
  newData : t.newData = s.newData

/-- Up to the completing byte a FEED_BYTE leaves the store alone; the completing byte commits the frame or counts an
error (R129, R138). -/
inductive StoreCase (b : Byte) (s t : State) : Prop where
  | keeps (pending : ¬ s.completes) (store : KeepsStore s t) (tag : isSuccess t.event = false)
  | commits (complete : s.completes) (crc : s.crcMatches b) (h : t = commitFrame (s.atCommit b))
  | crcError (complete : s.completes) (crc : ¬ s.crcMatches b) (h : t = crcFail (s.atCommit b))

/-- The two trailer bytes are not covered by the CRC, so the completing byte meets the CRC it found (R127). -/
theorem bodyByte_crcAcc_of_completes (hrx : s.rxCount = s.frameLen) : (bodyByte b s).crcAcc = s.crcAcc := by
  rw [bodyByte_crcAcc, hrx, if_neg (by omega)]

theorem feedByte_storeCase (b : Byte) (s : State) : StoreCase b s (feedByte b s) := by
  cases feedByte_cases b s with
  | moves outside h _ =>
    obtain ⟨p, e, he, h⟩ := h
    rw [h]
    have hno : ∀ e ∈ [Event.noise, .hdrAdvance, .desync, .lenReject], isSuccess (some e) = false := by decide
    exact .keeps (fun hc => outside hc.1) ⟨rfl, rfl, rfl, rfl, rfl⟩ (hno e he)
  | opens st _ h =>
    rw [h]
    exact .keeps (fun hc => by cases st.symm.trans hc.1) (by constructor <;> simp) rfl
  | body _ ne _ h =>
    rw [h]
    exact .keeps (fun hc => ne hc.2) (by constructor <;> simp) rfl
  | crcLow _ ne _ h =>
    rw [h]
    exact .keeps (fun hc => ne hc.2) (by constructor <;> simp) rfl
  | commit st eq crc h =>
    rw [bodyByte_crcAcc_of_completes eq, ← crcMatches_iff] at crc
    exact .commits ⟨st, eq⟩ crc h
  | crcErr st eq crc h =>
    rw [bodyByte_crcAcc_of_completes eq, Ne, ← crcMatches_iff] at crc
    exact .crcError ⟨st, eq⟩ crc h

/-! ## The flags (R31, R32, R35, R36) -/

/-- A transaction other than INIT either is a successful decode, which raises the flags and takes no validity away, or
leaves `connected` and the channels alone, and `new_data` too unless it is HAS_NEW_DATA. -/
inductive FlagCase (i : Instr) (s t : State) : Prop where
  | decoded (tag : isSuccess t.event = true) (connected : t.connected = true) (newData : t.newData = true)
      (valid : ∀ c, s.validOf c = true → t.validOf c = true)
  | kept (tag : isSuccess t.event = false) (connected : t.connected = s.connected) (chans : t.chans = s.chans)
      (newData : i ≠ .hasNewData → t.newData = s.newData)

theorem exec_flagCase {i : Instr} (h : exec i s = .next t) (hi : i ≠ .init) : FlagCase i s t := by
  cases exec_cases h with
  | init _ => exact absurd rfl hi
  | feedByte b _ ht =>
    rw [ht]
    cases feedByte_storeCase b s with
    | keeps _ store tag => exact .kept tag store.connected store.chans fun _ => store.newData
    | commits _ _ h =>
      rw [h]
      refine .decoded rfl rfl rfl fun c hc => ?_
      rw [commitFrame_validOf]
      exact (decoders_only (s.atCommit b)).valid c (by rwa [State.atCommit_validOf])
    | crcError _ _ h =>
      rw [h, crcFail_eq]
      exact .kept rfl (by simp) (by simp) fun _ => by simp
  | feedCan id data dlc _ ht =>
    rw [ht]
    rcases feedCan_cases id data dlc s with ⟨_, h⟩ | ⟨E, _, h⟩ <;> rw [h]
    · exact .kept rfl rfl rfl fun _ => rfl
    · exact .decoded rfl rfl rfl (decodeCanFields_only data dlc E.fields s).valid
  | hasNewData ht =>
    rw [ht]
    exact .kept rfl rfl rfl fun hne => absurd rfl hne
  | getSnapshot ht =>
    rw [ht]
    exact .kept rfl rfl rfl fun _ => rfl

/-- INIT is no decode and answers no tag (R226, R242). -/
theorem exec_init_tag (h : exec .init s = .next t) : isSuccess t.event = false := by
  cases exec_cases h with
  | init ht => rw [ht]; rfl

/-- Settles O44: a transaction other than INIT is one of the two cases of `FlagCase`. -/
theorem flagsAreTouchedOnlyAsTheTableSays : Obligations.FlagsAreTouchedOnlyAsTheTableSays := by
  intro i s t h
  by_cases hi : i = .init
  · subst hi
    exact ⟨fun htag => by simp [exec_init_tag h] at htag, fun _ hne => absurd rfl hne, fun hne => absurd rfl hne⟩
  · cases exec_flagCase h hi with
    | decoded tag connected newData valid =>
      exact ⟨fun _ => ⟨connected, newData⟩, fun hno => by simp [tag] at hno, fun _ => ⟨fun _ => connected, valid⟩⟩
    | kept tag connected chans newData =>
      exact ⟨fun hyes => by simp [tag] at hyes, fun _ _ => ⟨connected, sameChannels_of_chans_eq chans, newData⟩,
        fun _ => ⟨fun hs => connected.trans hs, fun c hs => (validOf_of_chans_eq chans c).trans hs⟩⟩

/-! ## The counters (R33, R34) -/

/-- FEED_CAN and the consumer's transactions count nothing (R33, spec decision D19). -/
theorem exec_counters_of_not_feedByte {i : Instr} (h : exec i s = .next t) (hi : i ≠ .init)
    (hbyte : ∀ b, i ≠ .feedByte b) : t.packetCount = s.packetCount ∧ t.errorCount = s.errorCount := by
  cases exec_cases h with
  | init _ => exact absurd rfl hi
  | feedByte b _ _ => exact absurd rfl (hbyte b)
  | feedCan id data dlc _ ht =>
    rw [ht]
    rcases feedCan_cases id data dlc s with ⟨_, h⟩ | ⟨E, _, h⟩ <;> rw [h]
    · exact ⟨rfl, rfl⟩
    · have honly := decodeCanFields_only data dlc E.fields s
      exact ⟨honly.packetCount, honly.errorCount⟩
  | hasNewData ht => rw [ht]; exact ⟨rfl, rfl⟩
  | getSnapshot ht => rw [ht]; exact ⟨rfl, rfl⟩

/-- Settles O45: of the three cases of a FEED_BYTE each counter has one of its own. -/
theorem countersCountFrames : Obligations.CountersCountFrames := by
  intro i s t h hi
  by_cases hbyte : ∃ b, i = .feedByte b
  · obtain ⟨b, rfl⟩ := hbyte
    obtain rfl : t = feedByte b s := by cases exec_cases h with | feedByte _ _ ht => exact ht
    simp only [Instr.feedByte.injEq, exists_eq_left']
    cases feedByte_storeCase b s with
    | keeps pending store _ =>
      exact ⟨fun hc => absurd hc.1 pending, fun hc => absurd hc.1 pending,
        fun _ => ⟨store.packetCount, store.errorCount⟩⟩
    | commits complete crc ht =>
      rw [ht]
      exact ⟨fun _ => by simp [BitVec.toNat_add], fun hc => absurd crc hc.2, fun hopen => absurd complete hopen⟩
    | crcError complete crc ht =>
      rw [ht, crcFail_eq]
      exact ⟨fun hc => absurd hc.2 crc, fun _ => by simp [BitVec.toNat_add], fun hopen => absurd complete hopen⟩
  · have hkept := exec_counters_of_not_feedByte h hi fun b hb => hbyte ⟨b, hb⟩
    exact ⟨fun ⟨b, hb, _⟩ => absurd ⟨b, hb⟩ hbyte, fun ⟨b, hb, _⟩ => absurd ⟨b, hb⟩ hbyte, fun _ => hkept⟩

/-! ## The configuration (R37, R70) -/

/-- Settles O11: `exec` keeps the configuration and the requests, so a step takes at most the first of them. -/
theorem stepKeepsTheConfiguration : Obligations.StepKeepsTheConfiguration := by
  intro s t h
  obtain ⟨_, ⟨_, rfl⟩ | ⟨q, rest, i, hreq, _, hexec⟩⟩ := step_cases h
  · exact ⟨rfl, .inl rfl⟩
  · have hcfg := exec_cfg hexec
    have hrequests := exec_requests hexec
    exact ⟨hcfg, .inr ⟨q, by rw [hreq, hrequests]⟩⟩

/-! ## The invariant, in two parts -/

/-- The part of the invariant that speaks of the framer and its buffer (R24 to R28, R61). -/
structure ParserInv (s : State) : Prop where
  frame : s.parserState = .readBody → FrameOpen s
  idle : s.parserState ≠ .readBody → s.rxCount = 0
  bufForm : s.buf.wf = true
  bufRange : s.buf.within s.cfg.bufCap = true

/-- The part of the invariant that speaks of the channel registers alone (R29, R31). -/
structure ChansInv (s : State) : Prop where
  chanIds : s.chans.map (·.ch) = s.cfg.channels.map (·.id)
  kinds : ∀ c ∈ s.cfg.channels, (s.valOf c.id).hasKind c.kind
  untouched : ∀ c ∈ s.cfg.channels, s.validOf c.id = false → s.valOf c.id = Val.zero c.kind

/-- Whatever only a decode brings about means `connected` (R32). -/
structure ConnectedInv (s : State) : Prop where
  valid : ∀ c, s.validOf c = true → s.connected = true
  newData : s.newData = true → s.connected = true
  count : s.packetCount ≠ 0 → s.connected = true

theorem inv_iff : Inv s ↔ ParserInv s ∧ ChansInv s ∧ ConnectedInv s := by
  constructor
  · rintro ⟨frame, idle, bufForm, bufRange, chanIds, kinds, untouched, valid, newData, count⟩
    exact ⟨⟨frame, idle, bufForm, bufRange⟩, ⟨chanIds, kinds, untouched⟩, ⟨valid, newData, count⟩⟩
  · rintro ⟨⟨frame, idle, bufForm, bufRange⟩, ⟨chanIds, kinds, untouched⟩, ⟨valid, newData, count⟩⟩
    exact ⟨frame, idle, bufForm, bufRange, chanIds, kinds, untouched, valid, newData, count⟩

/-! ## The parser part -/

/-- The parser part (R20) and the configuration are the same, register by register. -/
structure KeepsParser (s t : State) : Prop where
  cfg : t.cfg = s.cfg
  parserState : t.parserState = s.parserState
  frameLen : t.frameLen = s.frameLen
  rxCount : t.rxCount = s.rxCount
  crcAcc : t.crcAcc = s.crcAcc
  crcRxLo : t.crcRxLo = s.crcRxLo
  buf : t.buf = s.buf

theorem FrameOpen.of_keepsParser (hs : FrameOpen s) (h : KeepsParser s t) : FrameOpen t := by
  have hread : t.bufRead = s.bufRead := funext (bufRead_of_buf_eq h.buf)
  have hcov : t.crcCovered = s.crcCovered := by rw [State.crcCovered, h.rxCount, h.frameLen, State.crcCovered]
  constructor <;> simp only [h.cfg, h.frameLen, h.rxCount, h.crcAcc, h.crcRxLo, hread, hcov]
  exacts [hs.lenLow, hs.lenHigh, hs.rxLow, hs.rxHigh, hs.lengthByte, hs.crc, hs.crcLow]

theorem ParserInv.of_keepsParser (hs : ParserInv s) (h : KeepsParser s t) : ParserInv t := by
  constructor <;> simp only [h.cfg, h.parserState, h.rxCount, h.buf]
  exacts [fun hbody => (hs.frame hbody).of_keepsParser h, hs.idle, hs.bufForm, hs.bufRange]

/-- Outside a frame the parser part asks for the index 0 and a proper buffer. -/
theorem ParserInv.of_outside (hbody : s.parserState ≠ .readBody) (hrx : s.rxCount = 0) (hform : s.buf.wf = true)
    (hrange : s.buf.within s.cfg.bufCap = true) : ParserInv s :=
  ⟨fun h => absurd h hbody, fun _ => hrx, hform, hrange⟩

theorem one_toNat : (1 : Byte).toNat = 1 := rfl

theorem lengthAccepted_iff : lengthAccepted b = true ↔ 4 ≤ b.toNat ∧ b.toNat ≤ 48 := by
  rw [lengthAccepted, Bool.and_eq_true, decide_eq_true_iff, decide_eq_true_iff, lenMin, lenMax]

theorem openFrame_bufRead (hform : s.buf.wf = true) (i : Nat) :
    (openFrame b s).bufRead i = if i = 0 ∧ 0 < s.cfg.bufCap then b else s.bufRead i := by
  rw [← State.bufRead_bufWrite hform]
  exact bufRead_of_buf_eq (openFrame_buf b s) i

theorem bodyByte_bufRead (hform : s.buf.wf = true) (i : Nat) :
    (bodyByte b s).bufRead i = if i = s.rxCount.toNat ∧ s.rxCount.toNat < s.cfg.bufCap then b else s.bufRead i := by
  rw [← State.bufRead_bufWrite hform]
  exact bufRead_of_buf_eq (bodyByte_buf b s) i

/-- An accepted length byte opens a frame with itself as the one covered byte (R126). -/
theorem frameOpen_openFrame (hform : s.buf.wf = true) (hacc : lengthAccepted b = true) : FrameOpen (openFrame b s) := by
  obtain ⟨hlow, hhigh⟩ := lengthAccepted_iff.mp hacc
  have hcov : (openFrame b s).crcCovered = 1 := by
    rw [State.crcCovered, openFrame_rxCount, openFrame_frameLen, one_toNat]
    omega
  constructor
  case lenLow => simpa [lenMin] using hlow
  case lenHigh => simpa [lenMax] using hhigh
  case rxLow => simp
  case rxHigh => rw [openFrame_rxCount, openFrame_frameLen, one_toNat]; omega
  case lengthByte =>
    intro hcap
    rw [openFrame_cfg] at hcap
    rw [openFrame_bufRead hform, if_pos ⟨rfl, hcap⟩, openFrame_frameLen]
  case crc =>
    intro hcap
    simp only [openFrame_rxCount, openFrame_cfg] at hcap
    have hread : (openFrame b s).bufRead 0 = b := by rw [openFrame_bufRead hform, if_pos ⟨rfl, hcap⟩]
    simp [hcov, hread, crcOf]
  case crcLow =>
    intro hrx
    rw [openFrame_rxCount, openFrame_frameLen] at hrx
    simp [← hrx] at hlow

section
variable (hs : FrameOpen s) (hne : s.rxCount ≠ s.frameLen)
include hs hne

theorem FrameOpen.rx_lt : s.rxCount.toNat < s.frameLen.toNat :=
  Nat.lt_of_le_of_ne hs.rxHigh fun h => hne (BitVec.eq_of_toNat_eq h)

/-- The index does not wrap inside a frame (R25). -/
theorem FrameOpen.rx_succ : (s.rxCount + 1).toNat = s.rxCount.toNat + 1 := by
  have hlt := hs.rx_lt hne
  have hlen := s.frameLen.isLt
  rw [BitVec.toNat_add, one_toNat]
  omega

/-- After a body byte the running CRC is the CRC of the covered bytes as stored: the new byte is both covered and
stored, or it is the CRC low byte, which is not covered (R26, R127). -/
theorem FrameOpen.crc_bodyByte (hform : s.buf.wf = true) (hcap : s.rxCount.toNat < s.cfg.bufCap) :
    (bodyByte b s).crcAcc = crcOf (crcUpdate s.cfg.crcUpdate)
      ((List.range (bodyByte b s).crcCovered).map (bodyByte b s).bufRead) := by
  have hlt := hs.rx_lt hne
  have hsucc := hs.rx_succ hne
  have hbefore : (List.range s.rxCount.toNat).map (bodyByte b s).bufRead =
      (List.range s.rxCount.toNat).map s.bufRead := by
    refine List.map_congr_left fun i hi => ?_
    have : i < s.rxCount.toNat := List.mem_range.mp hi
    rw [bodyByte_bufRead hform, if_neg (by omega)]
  have hcrc := hs.crc hcap.le
  rw [show s.crcCovered = s.rxCount.toNat by rw [State.crcCovered]; omega] at hcrc
  rw [bodyByte_crcAcc, hcrc]
  split
  · next hcovered =>
    have hcov : (bodyByte b s).crcCovered = s.rxCount.toNat + 1 := by
      rw [State.crcCovered, bodyByte_rxCount, bodyByte_frameLen, hsucc]
      omega
    have hread : (bodyByte b s).bufRead s.rxCount.toNat = b := by rw [bodyByte_bufRead hform, if_pos ⟨rfl, hcap⟩]
    rw [hcov, List.range_succ, List.map_append, hbefore]
    simp [crcOf, hread]
  · next hlast =>
    have hcov : (bodyByte b s).crcCovered = s.rxCount.toNat := by
      rw [State.crcCovered, bodyByte_rxCount, bodyByte_frameLen, hsucc]
      omega
    rw [hcov, hbefore]

/-- A body byte before the completing one leaves the frame open, with the captured byte `lo`: any where the byte is
not the CRC low byte, and the byte itself where it is (R127, R128). -/
theorem FrameOpen.bodyByte (hform : s.buf.wf = true) {lo : Byte}
    (hlo : s.rxCount.toNat + 1 = s.frameLen.toNat → lo = b) : FrameOpen (captureCrcLow lo (bodyByte b s)) := by
  have hlt := hs.rx_lt hne
  have hsucc := hs.rx_succ hne
  constructor
  case lenLow => simpa using hs.lenLow
  case lenHigh => simpa using hs.lenHigh
  case rxLow => rw [captureCrcLow_rxCount, bodyByte_rxCount, hsucc]; omega
  case rxHigh => rw [captureCrcLow_rxCount, bodyByte_rxCount, hsucc, captureCrcLow_frameLen, bodyByte_frameLen]; omega
  case lengthByte =>
    intro hcap
    have hrx := hs.rxLow
    rw [captureCrcLow_bufRead, bodyByte_bufRead hform, if_neg (by omega)]
    simpa using hs.lengthByte (by simpa using hcap)
  case crc =>
    intro hcap
    simp only [captureCrcLow_rxCount, bodyByte_rxCount, hsucc, captureCrcLow_cfg, bodyByte_cfg] at hcap ⊢
    exact hs.crc_bodyByte hne hform hcap
  case crcLow =>
    intro hrx hcap
    simp only [captureCrcLow_rxCount, captureCrcLow_frameLen, bodyByte_rxCount, bodyByte_frameLen, captureCrcLow_cfg,
      bodyByte_cfg] at hrx hcap ⊢
    have hlast : s.rxCount.toNat + 1 = s.frameLen.toNat := by rw [← hrx, hsucc]
    rw [captureCrcLow_bufRead, bodyByte_bufRead hform, if_pos (by omega), captureCrcLow_crcRxLo, hlo hlast]

end

/-- A body byte before the completing one keeps the parser part, with the captured byte as in `FrameOpen.bodyByte`. -/
theorem ParserInv.bodyByte (hs : ParserInv s) (hbody : s.parserState = .readBody) (hne : s.rxCount ≠ s.frameLen)
    {lo : Byte} (hlo : s.rxCount.toNat + 1 = s.frameLen.toNat → lo = b) :
    ParserInv (captureCrcLow lo (bodyByte b s)) where
  frame _ := (hs.frame hbody).bodyByte hne hs.bufForm hlo
  idle hne' := absurd (by simpa using hbody) hne'
  bufForm := State.bufWrite_wf hs.bufForm _ b
  bufRange := by simpa using State.bufWrite_within hs.bufRange s.rxCount.toNat b

theorem ParserInv.atCommit (hs : ParserInv s) : ParserInv (s.atCommit b) :=
  .of_outside (by simp) (by simp) (State.bufWrite_wf hs.bufForm _ b)
    (by simpa [State.atCommit] using State.bufWrite_within hs.bufRange s.rxCount.toNat b)

theorem ParserInv.feedByte (hs : ParserInv s) : ParserInv (feedByte b s) := by
  cases feedByte_cases b s with
  | moves outside h stays =>
    obtain ⟨p, e, _, h⟩ := h
    rw [h] at stays ⊢
    exact .of_outside stays (hs.idle outside) hs.bufForm hs.bufRange
  | opens _ acc h =>
    have hopen : ParserInv (openFrame b s) :=
      ⟨fun _ => frameOpen_openFrame hs.bufForm acc, fun hne => absurd (openFrame_parserState b s) hne,
        State.bufWrite_wf hs.bufForm _ b, by simpa using State.bufWrite_within hs.bufRange 0 b⟩
    rw [h]
    exact hopen.of_keepsParser ⟨rfl, rfl, rfl, rfl, rfl, rfl, rfl⟩
  | body st ne ne1 h =>
    rw [h]
    have hbody : ParserInv (captureCrcLow s.crcRxLo (Machine.bodyByte b s)) :=
      hs.bodyByte st ne fun h1 => absurd h1 ne1
    exact hbody.of_keepsParser (by constructor <;> simp)
  | crcLow st ne _ h =>
    rw [h]
    exact (hs.bodyByte (b := b) st ne fun _ => rfl).of_keepsParser ⟨rfl, rfl, rfl, rfl, rfl, rfl, rfl⟩
  | commit _ _ _ h =>
    rw [h]
    exact (hs.atCommit (b := b)).of_keepsParser (by constructor <;> simp [State.atCommit])
  | crcErr _ _ _ h =>
    rw [h]
    exact (hs.atCommit (b := b)).of_keepsParser ⟨rfl, rfl, rfl, rfl, rfl, rfl, rfl⟩

/-! ## The channel registers -/

theorem ChansInv.of_chans_eq (hs : ChansInv s) (hcfg : t.cfg = s.cfg) (hchans : t.chans = s.chans) : ChansInv t := by
  have hval := valOf_of_chans_eq hchans
  have hvalid := validOf_of_chans_eq hchans
  constructor <;> simp only [hcfg, hchans, hval, hvalid]
  exacts [hs.chanIds, hs.kinds, hs.untouched]

theorem chansInv_of_fresh (hchans : s.chans = freshChans s.cfg.channels)
    (hids : noRepeats (s.cfg.channels.map (·.id)) = true) : ChansInv s where
  chanIds := by rw [hchans, freshChans_ids]
  kinds c hc := by
    rw [valOf_fresh hchans hids hc]
    cases c.kind <;> simp [Val.zero, Val.hasKind]
  untouched c hc _ := valOf_fresh hchans hids hc

theorem ChansInv.hasReg (hs : ChansInv s) {k : Channel} (hk : k ∈ s.cfg.channels) : hasReg s.chans k.id := by
  rw [Machine.hasReg, hs.chanIds]
  exact List.mem_map_of_mem hk

/-- A write of a value of the channel's kind (R29, R168). -/
theorem ChansInv.writeChannel (hs : ChansInv s) (hids : noRepeats (s.cfg.channels.map (·.id)) = true) {k : Channel}
    (hk : k ∈ s.cfg.channels) {v : Val} (hv : v.hasKind k.kind) : ChansInv (s.writeChannel k.id v) where
  chanIds := (setReg_ids k.id v s.chans).trans hs.chanIds
  kinds c hc := by
    by_cases hck : c.id = k.id
    · rw [eq_of_id_eq hids hc hk hck, State.writeChannel_valOf_self (hs.hasReg hk)]
      exact hv
    · rw [State.writeChannel_valOf_other hck]
      exact hs.kinds c hc
  untouched c hc hvalid := by
    by_cases hck : c.id = k.id
    · rw [hck, State.writeChannel_validOf_self (hs.hasReg hk)] at hvalid
      cases hvalid
    · rw [State.writeChannel_validOf_other hck] at hvalid
      rw [State.writeChannel_valOf_other hck]
      exact hs.untouched c hc hvalid

/-- A transform that fits a channel's kind evaluates to a value of that kind (R9 check 9, R161). -/
theorem evalTransform_hasKind {xf : Transform} {k : ChanKind} (h : xf.fitsKind k = true) (x : Int) :
    (evalTransform xf x).hasKind k := by
  cases xf <;> simpa [Transform.fitsKind, evalTransform, Val.hasKind] using h

theorem noRepeats_of_wellFormed {c : Config} (h : c.wellFormed = true) : noRepeats (c.channels.map (·.id)) = true :=
  (noRepeats_iff _).mpr (wellFormed_iff.mp h).1.ids

/-- A field of a well-formed configuration writes a channel whose kind its transform fits (R9 check 9). -/
theorem HasField.channel {c : Config} (hwf : c.wellFormed = true) {ch : Nat} {signed : Bool} {xf : Transform}
    (h : HasField c ch signed xf) : ∃ k ∈ c.channels, k.id = ch ∧ xf.fitsKind k.kind = true := by
  obtain ⟨hfmt, hnine⟩ := wellFormed_iff.mp hwf
  obtain ⟨_, _, _, _, _, _, _, _, hcheck9⟩ := (nineChecks_iff hfmt.ids).mp hnine
  exact (check9_iff hfmt.ids).mp hcheck9 ch signed xf h

/-- Whatever raw integer a field of the tables has, decoding it keeps the registers' invariant. -/
theorem ChansInv.writeField (hs : ChansInv s) (hwf : s.cfg.wellFormed = true) {ch : Nat} {signed : Bool}
    {xf : Transform} (h : HasField s.cfg ch signed xf) (x : Int) :
    ChansInv (s.writeChannel ch (evalTransform xf x)) := by
  obtain ⟨k, hk, rfl, hfit⟩ := h.channel hwf
  exact hs.writeChannel (noRepeats_of_wellFormed hwf) hk (evalTransform_hasKind hfit x)

theorem ChansInv.decodeTable (base : Nat) (es : List FieldEntry) (hs : ChansInv s) (hwf : s.cfg.wellFormed = true)
    (hes : ∀ e ∈ es, HasField s.cfg e.ch e.signed e.xf) : ChansInv (decodeTable base es s) := by
  induction es generalizing s with
  | nil => exact hs
  | cons e rest ih =>
    have hcfg := (decodeField_only e (base + e.off) s).cfg
    have hhead : ChansInv (decodeField e (base + e.off) s) := by
      rw [decodeField_eq]
      split
      · exact hs.writeField hwf (hes e (List.mem_cons_self ..)) _
      · exact hs
    exact ih hhead (hcfg ▸ hwf) fun e' he' => hcfg ▸ hes e' (List.mem_cons_of_mem _ he')

theorem ChansInv.fastDecode (hs : ChansInv s) (hwf : s.cfg.wellFormed = true) : ChansInv (fastDecode s) :=
  hs.decodeTable 0 _ hwf fun e he => .inl ⟨e, he, rfl, rfl, rfl⟩

/-- The entries SLOW_DECODE applies are those of one slot of the table (R170, R171). -/
theorem mem_slowEntries {e : FieldEntry} (h : e ∈ slowEntries s) : ∃ slot ∈ s.cfg.slowTable, e ∈ slot := by
  simp only [slowEntries] at h
  split at h
  · split at h
    · rw [List.getD_eq_getElem?_getD] at h
      cases hslot : s.cfg.slowTable[(s.bufRead s.cfg.selOff).toNat]? with
      | none => simp [hslot] at h
      | some slot => exact ⟨slot, List.mem_of_getElem? hslot, by simpa [hslot] using h⟩
    · cases h
  · cases h

theorem ChansInv.slowDecode (hs : ChansInv s) (hwf : s.cfg.wellFormed = true) : ChansInv (slowDecode s) := by
  refine hs.decodeTable _ _ hwf fun e he => ?_
  obtain ⟨slot, hslot, hmem⟩ := mem_slowEntries he
  exact .inr (.inl ⟨slot, hslot, e, hmem, rfl, rfl, rfl⟩)

theorem ChansInv.commitFrame (hs : ChansInv s) (hwf : s.cfg.wellFormed = true) : ChansInv (commitFrame s) := by
  have hslow : ChansInv (Machine.slowDecode (Machine.fastDecode s)) :=
    (hs.fastDecode hwf).slowDecode ((fastDecode_only s).cfg ▸ hwf)
  exact hslow.of_chans_eq rfl rfl

theorem ChansInv.decodeCanFields (data : CanData) (dlc : Byte) (fs : List CanField) (hs : ChansInv s)
    (hwf : s.cfg.wellFormed = true) (hfs : ∀ f ∈ fs, HasField s.cfg f.ch f.signed f.xf) :
    ChansInv (decodeCanFields data dlc fs s) := by
  induction fs generalizing s with
  | nil => exact hs
  | cons f rest ih =>
    have hcfg := (decodeCanField_only data dlc f s).cfg
    have hhead : ChansInv (decodeCanField data dlc f s) := by
      rw [decodeCanField]
      split
      · exact hs.writeField hwf (hfs f (List.mem_cons_self ..)) _
      · exact hs
    exact ih hhead (hcfg ▸ hwf) fun f' hf' => hcfg ▸ hfs f' (List.mem_cons_of_mem _ hf')

/-! ## The invariant under each transaction -/

/-- A state that is connected asks nothing more of its flags (R32). -/
theorem connectedInv_of_connected (h : s.connected = true) : ConnectedInv s := ⟨fun _ _ => h, fun _ => h, fun _ => h⟩

/-- Flags and counters that do not rise need no decode. -/
theorem ConnectedInv.of_chans_eq (hs : ConnectedInv s) (hchans : t.chans = s.chans) (hconn : t.connected = s.connected)
    (hnew : t.newData = true → s.newData = true) (hcount : t.packetCount = s.packetCount) : ConnectedInv t where
  valid c hc := hconn.trans (hs.valid c ((validOf_of_chans_eq hchans c).symm.trans hc))
  newData hd := hconn.trans (hs.newData (hnew hd))
  count hp := hconn.trans (hs.count (hcount ▸ hp))

/-- INIT establishes the invariant (R39, R226), from any state whose channel ids do not repeat. -/
theorem inv_init (hids : noRepeats (s.cfg.channels.map (·.id)) = true) : Inv ((initAll s).answer .none none) := by
  have hinvalid : ∀ c, ((initAll s).answer .none none).validOf c = false := validOf_fresh rfl
  exact inv_iff.mpr
    ⟨.of_outside (by simp) rfl rfl rfl, chansInv_of_fresh rfl hids,
      fun c hc => by simp [hinvalid c] at hc, fun hd => absurd hd Bool.false_ne_true, fun hp => absurd rfl hp⟩

/-- Settles O53: the reset state is the state INIT makes of it (R270). -/
theorem invariantHoldsAtReset : Obligations.InvariantHoldsAtReset := inv_init (s := State.reset) (by decide)

theorem Inv.feedByte (hs : Inv s) (hwf : s.cfg.wellFormed = true) : Inv (feedByte b s) := by
  obtain ⟨hparser, hchans, hconn⟩ := inv_iff.mp hs
  refine inv_iff.mpr ⟨hparser.feedByte, ?_⟩
  cases feedByte_storeCase b s with
  | keeps _ store _ =>
    exact ⟨hchans.of_chans_eq (feedByte_cfg b s) store.chans,
      hconn.of_chans_eq store.chans store.connected (fun hd => store.newData ▸ hd) store.packetCount⟩
  | commits _ _ h =>
    have hat : ChansInv (s.atCommit b) := hchans.of_chans_eq (by simp) (by simp)
    rw [h]
    exact ⟨hat.commitFrame (by simpa using hwf), connectedInv_of_connected rfl⟩
  | crcError _ _ h =>
    rw [h, crcFail_eq]
    exact ⟨hchans.of_chans_eq (by simp) (by simp), hconn.of_chans_eq (by simp) (by simp) (by simp) (by simp)⟩

/-- A transaction that leaves the parser, the channels, `connected` and the packet counter alone and does not raise
`new_data`. -/
theorem Inv.of_keepsParser (hs : Inv s) (h : KeepsParser s t) (hchans : t.chans = s.chans)
    (hconn : t.connected = s.connected) (hnew : t.newData = true → s.newData = true)
    (hcount : t.packetCount = s.packetCount) : Inv t := by
  obtain ⟨hparser, hregs, hflags⟩ := inv_iff.mp hs
  exact inv_iff.mpr
    ⟨hparser.of_keepsParser h, hregs.of_chans_eq h.cfg hchans, hflags.of_chans_eq hchans hconn hnew hcount⟩

theorem Inv.feedCan (id : Word) (data : CanData) (dlc : Byte) (hs : Inv s) (hwf : s.cfg.wellFormed = true) :
    Inv (feedCan id data dlc s) := by
  rcases feedCan_cases id data dlc s with ⟨_, h⟩ | ⟨E, hE, h⟩ <;> rw [h]
  · exact hs.of_keepsParser ⟨rfl, rfl, rfl, rfl, rfl, rfl, rfl⟩ rfl rfl (fun hd => hd) rfl
  · obtain ⟨hparser, hchans, _⟩ := inv_iff.mp hs
    have honly := decodeCanFields_only data dlc E.fields s
    have hregs : ChansInv (decodeCanFields data dlc E.fields s) := hchans.decodeCanFields data dlc E.fields hwf
      fun f hf => .inr (.inr ⟨E, List.mem_of_find?_eq_some hE, f, hf, rfl, rfl, rfl⟩)
    exact inv_iff.mpr
      ⟨hparser.of_keepsParser ⟨honly.cfg, honly.parserState, honly.frameLen, honly.rxCount, honly.crcAcc,
        honly.crcRxLo, honly.buf⟩, hregs.of_chans_eq rfl rfl, connectedInv_of_connected rfl⟩

/-- Every transaction keeps the invariant, under a well-formed configuration. -/
theorem Inv.exec {i : Instr} (hs : Inv s) (hwf : s.cfg.wellFormed = true) (h : exec i s = .next t) : Inv t := by
  cases exec_cases h with
  | init ht =>
    rw [ht]
    exact inv_init (noRepeats_of_wellFormed hwf)
  | feedByte b _ ht =>
    rw [ht]
    exact hs.feedByte hwf
  | feedCan id data dlc _ ht =>
    rw [ht]
    exact hs.feedCan id data dlc hwf
  | hasNewData ht =>
    rw [ht]
    exact hs.of_keepsParser ⟨rfl, rfl, rfl, rfl, rfl, rfl, rfl⟩ rfl rfl (fun hd => absurd hd Bool.false_ne_true) rfl
  | getSnapshot ht =>
    rw [ht]
    exact hs.of_keepsParser ⟨rfl, rfl, rfl, rfl, rfl, rfl, rfl⟩ rfl rfl (fun hd => hd) rfl

/-- Settles O54: waiting changes nothing, taking a request changes no part of the invariant, and a transaction keeps
it. -/
theorem everyStepKeepsTheInvariant : Obligations.EveryStepKeepsTheInvariant := by
  intro s t hs h
  obtain ⟨hwf, ⟨_, rfl⟩ | ⟨q, rest, i, _, _, hexec⟩⟩ := step_cases h
  · exact hs
  · have htaken : Inv { s with requests := rest } :=
      hs.of_keepsParser ⟨rfl, rfl, rfl, rfl, rfl, rfl, rfl⟩ rfl rfl (fun hd => hd) rfl
    exact htaken.exec hwf hexec

end Sys2Proof.Machine
end

section
/-! # The memory family (20_memory.md): the total order of requests, the two ports, and the consumer

What a transaction decodes does not depend on its surroundings: which ports the block has, which requests still wait,
what the flag and the last answer were. `exec_amid` says so once, with what becomes of the surroundings
(`Surroundings.after`), for every transaction that is part of the block. A run of requests (O12) and a block with both
ports (O13) change the requests and the ports; the consumer (O52) changes the flag and the answer. -/

namespace Sys2Proof

/-! ## The request word reads back (R91, R92) -/

/-- Byte `k + 1` of a word with a byte appended is byte `k` of the word. -/
theorem extractLsb'_append_byte {v k : Nat} (x : BitVec v) (y : Byte) :
    (x ++ y).extractLsb' (8 * (k + 1)) 8 = x.extractLsb' (8 * k) 8 := by
  rw [BitVec.extractLsb'_append_eq_of_le (by omega), Nat.mul_succ, Nat.add_sub_cancel]

/-- The packed data bytes are the frame's data bytes (R91). -/
theorem canDataField_packRequest (data : CanData) (dlc : Byte) (id : Word) (b : Byte) (op : BitVec 3) :
    canDataField (packRequest (packData data) dlc id b op) = data := by
  simp only [canDataField, canDataByte_packRequest, Nat.reduceLT, packData, extractLsb'_append_byte, Nat.mul_zero,
    BitVec.extractLsb'_append_eq_right, BitVec.extractLsb'_eq_self]

/-- The decoder reads back every encoded transaction (R91, R92). -/
theorem decode_encode (i : Instr) : decode (encode i) = .ok i := by
  cases i with
  | init => simp [decode, encode, opField_packRequest]
  | feedByte b => simp [decode, encode, opField_packRequest, byteField_packRequest]
  | feedCan id data dlc =>
    simp [decode, encode, opField_packRequest, canIdField_packRequest, dlcField_packRequest, canDataField_packRequest]
  | hasNewData => simp [decode, encode, opField_packRequest]
  | getSnapshot => simp [decode, encode, opField_packRequest]

end Sys2Proof

namespace Sys2Proof.Machine

variable {i : Instr} {s t : State}

/-! ## A step that takes a request (R70, R90) -/

theorem step_of_request {q : Request} {rest : List Request} (hwf : s.cfg.wellFormed = true)
    (hreq : s.requests = q :: rest) (hq : decode q = .ok i) : step s = exec i { s with requests := rest } := by
  simp [step, State.fetch, hwf, hreq, hq]

/-- Settles O5: `step` takes the head request and runs what it decodes to. -/
theorem stepRunsTheDecodedRequest : Obligations.StepRunsTheDecodedRequest :=
  fun _ _ _ _ => step_of_request

/-! ## Which transactions complete (R94, R240) -/

theorem exec_of_wellFormed (h : i.wellFormed s.cfg = true) : ∃ t, exec i s = .next t := by
  cases i with
  | init => exact ⟨_, rfl⟩
  | feedByte b => exact ⟨_, if_pos h⟩
  | feedCan id data dlc => exact ⟨_, if_pos h⟩
  | hasNewData => exact ⟨_, rfl⟩
  | getSnapshot => exact ⟨_, rfl⟩

theorem exec_of_not_wellFormed (h : i.wellFormed s.cfg ≠ true) : exec i s = .refused .portDisabled := by
  cases i with
  | init => exact absurd rfl h
  | feedByte b => exact if_neg h
  | feedCan id data dlc => exact if_neg h
  | hasNewData => exact absurd rfl h
  | getSnapshot => exact absurd rfl h

theorem wellFormed_of_exec (h : exec i s = .next t) : i.wellFormed s.cfg = true := by
  by_contra hport
  simp [exec_of_not_wellFormed hport] at h

/-! ## The surroundings of a transaction -/

/-- What no decode reads: the ports of the block, the waiting requests, the new-data flag and the last answer. -/
structure Surroundings where
  transport : Transport
  requests : List Request
  newData : Bool
  response : Response
  event : Option Event

def State.surroundings (s : State) : Surroundings where
  transport := s.cfg.transport
  requests := s.requests
  newData := s.newData
  response := s.response
  event := s.event

/-- The state with the surroundings `u` in place of its own. -/
def State.amid (u : Surroundings) (s : State) : State :=
  { s with
    cfg := { s.cfg with transport := u.transport }
    requests := u.requests
    newData := u.newData
    response := u.response
    event := u.event }

/-- What a FEED_BYTE or FEED_CAN that ends in `t` makes of its surroundings: a successful decode raises the flag. -/
def Surroundings.afterFeed (u : Surroundings) (t : State) : Surroundings :=
  { u with newData := isSuccess t.event || u.newData, response := t.response, event := t.event }

/-- What a transaction that ends in `t` makes of its surroundings: HAS_NEW_DATA alone answers from them (R223). -/
def Surroundings.after (u : Surroundings) (t : State) : Instr → Surroundings
  | .init => { u with newData := false, response := .none, event := none }
  | .feedByte _ => u.afterFeed t
  | .feedCan _ _ _ => u.afterFeed t
  | .hasNewData => { u with newData := false, response := .bit u.newData, event := none }
  | .getSnapshot => { u with response := t.response, event := none }

/-! ## What a decode computes does not depend on the surroundings -/

section
variable (u : Surroundings) (s : State) (b : Byte)

theorem State.bufWrite_amid (k : Nat) : (s.amid u).bufWrite k b = (s.bufWrite k b).amid u := by
  rw [State.bufWrite, State.bufWrite, apply_ite (State.amid u)]; rfl

theorem bodyByte_amid : bodyByte b (s.amid u) = (bodyByte b s).amid u := by
  rw [bodyByte, State.bufWrite_amid]; rfl

theorem openFrame_amid : openFrame b (s.amid u) = (openFrame b s).amid u := by
  rw [openFrame, State.bufWrite_amid]; rfl

theorem decodeField_amid (e : FieldEntry) (a : Nat) :
    decodeField e a (s.amid u) = (decodeField e a s).amid u := by
  rw [decodeField, decodeField, apply_ite (State.amid u)]; rfl

theorem decodeTable_amid (base : Nat) (es : List FieldEntry) :
    decodeTable base es (s.amid u) = (decodeTable base es s).amid u := by
  induction es generalizing s with
  | nil => rfl
  | cons e rest ih => rw [decodeTable, decodeField_amid, ih, decodeTable]

theorem decoders_amid : slowDecode (fastDecode (s.amid u)) = (slowDecode (fastDecode s)).amid u := by
  have hfast : fastDecode (s.amid u) = (fastDecode s).amid u := decodeTable_amid u s 0 s.cfg.fastTable
  rw [hfast]
  exact decodeTable_amid u (fastDecode s) _ _

theorem decodeCanField_amid (data : CanData) (dlc : Byte) (f : CanField) :
    decodeCanField data dlc f (s.amid u) = (decodeCanField data dlc f s).amid u := by
  rw [decodeCanField, decodeCanField, apply_ite (State.amid u)]; rfl

theorem decodeCanFields_amid (data : CanData) (dlc : Byte) (fs : List CanField) :
    decodeCanFields data dlc fs (s.amid u) = (decodeCanFields data dlc fs s).amid u := by
  induction fs generalizing s with
  | nil => rfl
  | cons f rest ih => rw [decodeCanFields, decodeCanField_amid, ih, decodeCanFields]

theorem commitFrame_amid : commitFrame (s.amid u) = (commitFrame s).amid (u.afterFeed (commitFrame s)) := by
  rw [commitFrame, decoders_amid]; rfl

/-- Two branches that each commute with a change of the surroundings do so together. -/
theorem ite_amid_afterFeed {p : Prop} [Decidable p] {x y x' y' : State} (hx : x' = x.amid (u.afterFeed x))
    (hy : y' = y.amid (u.afterFeed y)) :
    (if p then x' else y') = (if p then x else y).amid (u.afterFeed (if p then x else y)) := by
  split
  · exact hx
  · exact hy

theorem feedSeek0_amid : feedSeek0 b (s.amid u) = (feedSeek0 b s).amid (u.afterFeed (feedSeek0 b s)) := by
  unfold feedSeek0
  split <;> rfl

theorem feedHeader_amid (h : Byte) (n : ParserState) :
    feedHeader h n b (s.amid u) = (feedHeader h n b s).amid (u.afterFeed (feedHeader h n b s)) :=
  ite_amid_afterFeed u rfl rfl

theorem feedVersion_amid : feedVersion b (s.amid u) = (feedVersion b s).amid (u.afterFeed (feedVersion b s)) :=
  ite_amid_afterFeed u rfl rfl

theorem feedLength_amid : feedLength b (s.amid u) = (feedLength b s).amid (u.afterFeed (feedLength b s)) := by
  rw [feedLength, openFrame_amid]
  exact ite_amid_afterFeed u rfl rfl

theorem completeFrame_amid :
    completeFrame b (s.amid u) = (completeFrame b s).amid (u.afterFeed (completeFrame b s)) :=
  ite_amid_afterFeed u (commitFrame_amid u (closeFrame s)) rfl

theorem feedBody_amid : feedBody b (s.amid u) = (feedBody b s).amid (u.afterFeed (feedBody b s)) := by
  rw [feedBody, bodyByte_amid]
  exact ite_amid_afterFeed u (completeFrame_amid u (bodyByte b s) b) (ite_amid_afterFeed u rfl rfl)

/-- FEED_BYTE amid other surroundings gives the same state but for the surroundings. -/
theorem feedByte_amid : feedByte b (s.amid u) = (feedByte b s).amid (u.afterFeed (feedByte b s)) := by
  have hstate : (s.amid u).parserState = s.parserState := rfl
  cases hp : s.parserState with
  | seek0 => rw [feedByte_seek0 hp, feedByte_seek0 (hstate.trans hp), feedSeek0_amid]
  | seek1 => rw [feedByte_seek1 hp, feedByte_seek1 (hstate.trans hp), feedHeader_amid]
  | seek2 => rw [feedByte_seek2 hp, feedByte_seek2 (hstate.trans hp), feedHeader_amid]
  | seek3 => rw [feedByte_seek3 hp, feedByte_seek3 (hstate.trans hp), feedHeader_amid]
  | seekVersion => rw [feedByte_seekVersion hp, feedByte_seekVersion (hstate.trans hp), feedVersion_amid]
  | readLength => rw [feedByte_readLength hp, feedByte_readLength (hstate.trans hp), feedLength_amid]
  | readBody => rw [feedByte_readBody hp, feedByte_readBody (hstate.trans hp), feedBody_amid]

/-- FEED_CAN amid other surroundings gives the same state but for the surroundings. -/
theorem feedCan_amid (id : Word) (data : CanData) (dlc : Byte) :
    feedCan id data dlc (s.amid u) = (feedCan id data dlc s).amid (u.afterFeed (feedCan id data dlc s)) := by
  have htable : (s.amid u).cfg.canTable = s.cfg.canTable := rfl
  unfold feedCan
  rw [htable]
  cases lookupCan s.cfg.canTable id with
  | none => rfl
  | some E => simp only [decodeCanFields_amid]; rfl

end

/-- A transaction that completes also completes amid other surroundings that have its port, with the same state but
for the surroundings. -/
theorem exec_amid {u : Surroundings} (h : exec i s = .next t) (hport : i.wellFormed (s.amid u).cfg = true) :
    exec i (s.amid u) = .next (t.amid (u.after t i)) := by
  cases exec_cases h with
  | init ht => rw [ht]; rfl
  | feedByte b _ ht =>
    rw [ht]
    exact (if_pos hport).trans (congrArg Host.Outcome.next (feedByte_amid u s b))
  | feedCan id data dlc _ ht =>
    rw [ht]
    exact (if_pos hport).trans (congrArg Host.Outcome.next (feedCan_amid u s id data dlc))
  | hasNewData ht => rw [ht]; rfl
  | getSnapshot ht => rw [ht]; rfl

/-! ## Other ports and other requests (R70, R72) -/

/-- The flag after a transaction other than INIT and HAS_NEW_DATA (R35, R224). -/
theorem exec_newData (h : exec i s = .next t) (hinit : i ≠ .init) (hread : i ≠ .hasNewData) :
    t.newData = (isSuccess t.event || s.newData) := by
  cases exec_flagCase h hinit with
  | decoded tag _ newData _ => rw [newData, tag, Bool.true_or]
  | kept tag _ _ newData => rw [newData hread, tag, Bool.false_or]

/-- A transaction makes of its own surroundings those of the state it ends in. -/
theorem exec_surroundings (h : exec i s = .next t) : s.surroundings.after t i = t.surroundings := by
  have hcfg := exec_cfg h
  have hreq := exec_requests h
  cases exec_cases h with
  | init ht => rw [ht]; rfl
  | feedByte b _ _ =>
    have hflag := exec_newData h (by simp) (by simp)
    simp only [Surroundings.after, Surroundings.afterFeed, State.surroundings, hcfg, hreq, hflag]
  | feedCan id data dlc _ _ =>
    have hflag := exec_newData h (by simp) (by simp)
    simp only [Surroundings.after, Surroundings.afterFeed, State.surroundings, hcfg, hreq, hflag]
  | hasNewData ht => rw [ht]; rfl
  | getSnapshot ht => rw [ht]; rfl

/-- The state on a block with other ports and with other requests waiting. -/
def State.rehost (p : Transport) (rs : List Request) (s : State) : State :=
  { s with cfg := { s.cfg with transport := p }, requests := rs }

theorem exec_rehost {p : Transport} {rs : List Request} (h : exec i s = .next t)
    (hport : i.wellFormed (s.rehost p rs).cfg = true) : exec i (s.rehost p rs) = .next (t.rehost p rs) := by
  have hexec := exec_amid (u := { s.surroundings with transport := p, requests := rs }) h hport
  have hafter : Surroundings.after { s.surroundings with transport := p, requests := rs } t i =
      { t.surroundings with transport := p, requests := rs } := by
    rw [← exec_surroundings h]
    cases i <;> rfl
  rw [hafter] at hexec
  exact hexec

/-- On a block whose ports differ a transaction that is part of both does the same. -/
theorem exec_with_ports {p : Transport} (h : i.wellFormed s.cfg = true)
    (hport : i.wellFormed { s.cfg with transport := p } = true) :
    ∃ t, exec i { s with cfg := { s.cfg with transport := p } } = .next t ∧
      exec i s = .next { t with cfg := s.cfg } := by
  obtain ⟨t, ht⟩ := exec_of_wellFormed h
  refine ⟨_, exec_rehost (rs := s.requests) ht hport, ?_⟩
  rw [ht, ← exec_cfg ht, ← exec_requests ht]
  rfl

/-- Settles O13: on the block with both ports and on the block with its own port alone a transaction does the same. -/
theorem bothPortsActAsEachAlone : Obligations.BothPortsActAsEachAlone := by
  intro s hboth
  refine ⟨fun b => exec_with_ports ?_ rfl, fun id data dlc => exec_with_ports ?_ rfl⟩ <;>
    simp [Instr.wellFormed, hboth, Transport.hasUart, Transport.hasCan]

/-! ## A run takes the requests in order (R70) -/

section
variable {k : Nat} {rest : List Instr} {r : Refusal}

theorem run_succ_of_next {M : Host.Core} {s t : M.State} (h : M.step s = .next t) : M.run (k + 1) s = M.run k t := by
  rw [Host.Core.run, h]

theorem run_succ_of_refused {M : Host.Core} {s : M.State} {r : M.Refusal} (h : M.step s = .refused r) :
    M.run (k + 1) s = .refused r := by
  rw [Host.Core.run, h]

theorem execAll_cons_of_next (h : exec i s = .next t) : execAll (i :: rest) s = execAll rest t := by
  rw [execAll, h]

theorem execAll_cons_of_refused (h : exec i s = .refused r) : execAll (i :: rest) s = .refused r := by
  rw [execAll, h]

/-- A run that completes completes its first transaction. -/
theorem execAll_cons_next {u : State} (h : execAll (i :: rest) s = .next u) :
    ∃ t, exec i s = .next t ∧ execAll rest t = .next u := by
  rw [execAll] at h
  split at h
  · exact ⟨_, ‹_›, h⟩
  · cases h
  · cases h

end

/-- `exec` neither reads the waiting requests nor changes them. -/
theorem exec_with_requests (rs : List Request) (h : exec i s = .next t) :
    exec i { s with requests := rs } = .next { t with requests := rs } := by
  calc exec i { s with requests := rs }
    _ = .next (t.rehost s.cfg.transport rs) := exec_rehost h (p := s.cfg.transport) (wellFormed_of_exec h :)
    _ = .next { t with requests := rs } := by rw [← exec_cfg h]; rfl

/-- Settles O12, by induction on the transactions: a step runs the first of them, and leaves the others' requests to
the state that follows. -/
theorem runOfRequestsIsExecutionInOrder : Obligations.RunOfRequestsIsExecutionInOrder := by
  intro is
  induction is with
  | nil =>
    intro s _ hreq
    exact congrArg (fun rs => Host.Outcome.next { s with requests := rs }) hreq
  | cons i rest ih =>
    intro s hwf hreq
    have hstep := step_of_request hwf hreq (decode_encode i)
    by_cases hport : i.wellFormed s.cfg = true
    · obtain ⟨t, ht⟩ := exec_of_wellFormed (s := { s with requests := rest.map encode }) hport
      have hnone := exec_with_requests [] ht
      rw [List.length_cons, run_succ_of_next (M := core) (hstep.trans ht), execAll_cons_of_next hnone]
      exact ih t (by rwa [exec_cfg ht]) (exec_requests ht)
    · have hrefused : ∀ rs, exec i { s with requests := rs } = .refused .portDisabled := fun rs =>
        exec_of_not_wellFormed (s := { s with requests := rs }) hport
      have hrun := run_succ_of_refused (M := core) (k := rest.length) (hstep.trans (hrefused _))
      exact hrun.trans (execAll_cons_of_refused (hrefused [])).symm

/-! ## The consumer (R66, R248) -/

section
variable {s' : State}

/-- States that agree on all but the new-data flag and the last answer differ in their surroundings alone. -/
theorem AgreeButNewData.eq_amid (h : AgreeButNewData s s') : s' = s.amid s'.surroundings := by
  obtain ⟨⟨hcfg, _⟩, ⟨hstate, hlen, hrx, hcrc, hlo, _⟩, hbuf, hchans, hconn, hpackets, herrors⟩ := h
  cases s
  cases s'
  simp_all [State.amid, State.surroundings]

theorem AgreeButNewData.of_eq_amid {u : Surroundings} (h : s' = s.amid u) (hcfg : s'.cfg = s.cfg)
    (hreq : s'.requests = s.requests) : AgreeButNewData s s' := by
  subst h
  exact ⟨⟨hcfg, hreq⟩, ⟨rfl, rfl, rfl, rfl, rfl, fun _ => rfl⟩, rfl, rfl, rfl, rfl, rfl⟩

/-- A transaction takes states that agree to states that agree. -/
theorem AgreeButNewData.exec (h : AgreeButNewData s s') (ht : exec i s = .next t) :
    ∃ t', exec i s' = .next t' ∧ AgreeButNewData t t' := by
  have hport : i.wellFormed s'.cfg = true := h.host.cfg ▸ wellFormed_of_exec ht
  have ht' : Machine.exec i s' = .next (t.amid (s'.surroundings.after t i)) := by
    rw [h.eq_amid] at hport ⊢
    exact exec_amid ht hport
  refine ⟨_, ht', .of_eq_amid rfl ?_ ?_⟩
  · rw [exec_cfg ht', exec_cfg ht, h.host.cfg]
  · rw [exec_requests ht', exec_requests ht, h.host.requests]

/-- A consumer's transaction changes nothing but the flag and the answer (R222, R223). -/
theorem AgreeButNewData.consumer (h : AgreeButNewData s s') (hi : isConsumer i = true)
    (ht : Machine.exec i s = .next t) : AgreeButNewData t s' := by
  have hamid : s' = t.amid s'.surroundings := by
    cases exec_cases ht with
    | init _ => cases hi
    | feedByte _ _ _ => cases hi
    | feedCan _ _ _ _ _ => cases hi
    | hasNewData hnext => rw [hnext]; exact h.eq_amid
    | getSnapshot hnext => rw [hnext]; exact h.eq_amid
  refine .of_eq_amid hamid ?_ ?_
  · rw [exec_cfg ht, h.host.cfg]
  · rw [exec_requests ht, h.host.requests]

/-- A run without the consumer's transactions keeps agreeing with the run that has them. -/
theorem AgreeButNewData.execAll_filter (is : List Instr) (h : AgreeButNewData s s') (hrun : execAll is s = .next t) :
    ∃ t', execAll (is.filter fun i => !isConsumer i) s' = .next t' ∧ AgreeButNewData t t' := by
  induction is generalizing s s' with
  | nil =>
    rw [execAll, Host.Outcome.next.injEq] at hrun
    exact ⟨s', rfl, hrun ▸ h⟩
  | cons i rest ih =>
    obtain ⟨t₁, hfirst, hrest⟩ := execAll_cons_next hrun
    by_cases hi : isConsumer i = true
    · rw [List.filter_cons_of_neg (by simpa using hi)]
      exact ih (h.consumer hi hfirst) hrest
    · obtain ⟨t₁', hfirst', hagree⟩ := h.exec hfirst
      rw [List.filter_cons_of_pos (by simpa using hi), execAll_cons_of_next hfirst']
      exact ih hagree hrest

end

/-- Settles O52: a state agrees with itself, and the two runs keep agreeing. -/
theorem consumerNeverDisturbsDecoding : Obligations.ConsumerNeverDisturbsDecoding := fun is s _ hrun =>
  AgreeButNewData.execAll_filter is (.of_eq_amid (u := s.surroundings) rfl rfl rfl) hrun

end Sys2Proof.Machine
end

section
/-! # The encoding family (30_encoding.md): the request word, raw fields and transforms, and the frame on the wire

The decoder against the layout (O1) turns on one fact, that a field is a division by a power of two. The frame (O48)
turns on one invariant of the byte sequence taken so far, `FrameTaken`, which holds whatever part of the frame the
buffer can hold. -/

namespace Sys2Proof

variable {q : Request}

/-! ## The request word by its layout (R91 to R93) -/

/-- Settles O2. -/
theorem decodeOfEncodeIsTheInstruction : Obligations.DecodeOfEncodeIsTheInstruction := decode_encode

theorem opField_toNat (q : Request) : (opField q).toNat = q.toNat % 8 := by
  simp [opField]

/-- A field of a word is the word divided by the weight of the field's lowest bit. -/
theorem extractLsb'_eq_ofNat_div {w : Nat} (x : BitVec w) (start len : Nat) :
    x.extractLsb' start len = BitVec.ofNat len (x.toNat / 2 ^ start) := by
  rw [BitVec.extractLsb', Nat.shiftRight_eq_div_pow]

theorem decode_of_reserved (h : 5 ≤ (opField q).toNat) : decode q = .error (.reservedOp (opField q)) := by
  unfold decode
  split
  case h_6 => rfl
  all_goals omega

/-- Settles O1: each transaction code selects its arm, and the arm's operands are fields. -/
theorem requestWordIsReadByItsLayout : Obligations.RequestWordIsReadByItsLayout := by
  intro q
  rw [← opField_toNat]
  refine ⟨fun hop => ?init, fun hop => ?feedByte, fun hop => ?feedCan, fun hop => ?hasNewData,
    fun hop => ?getSnapshot, fun hop => ?reserved⟩
  case init => simp [decode, hop]
  case feedByte => simp [decode, hop, byteField, extractLsb'_eq_ofNat_div]
  case feedCan =>
    simp [decode, hop, canIdField, dlcField, canDataField, canDataByte, extractLsb'_eq_ofNat_div]
  case hasNewData => simp [decode, hop]
  case getSnapshot => simp [decode, hop]
  case reserved => rw [decode_of_reserved hop, opField, extractLsb'_eq_ofNat_div, Nat.pow_zero, Nat.div_one]

theorem decode_of_encode_eq {i : Instr} (h : encode i = q) : decode q = .ok i := h ▸ decode_encode i

/-- Settles O3: each of the words is the encoding of its transaction. -/
theorem specWordsDecode : Obligations.SpecWordsDecode :=
  ⟨decode_of_encode_eq (by decide), decode_of_encode_eq (by decide), decode_of_encode_eq (by decide),
    decode_of_encode_eq (by decide), decode_of_encode_eq (by decide)⟩

end Sys2Proof

namespace Sys2Proof.Machine

variable {s s₀ : State} {b len : Byte} {taken : List Byte}

theorem step_of_reserved {q : Request} {rest : List Request} (hwf : s.cfg.wellFormed = true)
    (hreq : s.requests = q :: rest) (hop : 5 ≤ (opField q).toNat) : step s = .refused (.reservedOp (opField q)) := by
  simp [step, State.fetch, hwf, hreq, decode_of_reserved hop, refuse]

/-- Settles O4. -/
theorem reservedCodesAreRefused : Obligations.ReservedCodesAreRefused :=
  fun _ _ _ hwf hreq hop => ⟨decode_of_reserved hop, step_of_reserved hwf hreq hop⟩

/-- Settles O10: a transaction completes where it is part of the block, and is refused where it is not (R94). -/
theorem disabledPortIsRefused : Obligations.DisabledPortIsRefused := by
  intro s b id data dlc
  refine ⟨fun huart => ⟨exec_of_not_wellFormed ?_, exec_of_wellFormed ?_⟩,
    fun hcan => ⟨exec_of_not_wellFormed ?_, exec_of_wellFormed ?_⟩,
    exec_of_wellFormed rfl, exec_of_wellFormed rfl, exec_of_wellFormed rfl⟩
  · simp [Instr.wellFormed, huart, Transport.hasCan]
  · simp [Instr.wellFormed, huart, Transport.hasUart]
  · simp [Instr.wellFormed, hcan, Transport.hasUart]
  · simp [Instr.wellFormed, hcan, Transport.hasCan]

/-! ## Raw fields and transforms (R101, R106) -/

theorem le16_toNat (lo hi : Byte) : (le16 lo hi).toNat = lo.toNat + 256 * hi.toNat := by
  have hlo := lo.isLt
  rw [le16, BitVec.toNat_append, ← Nat.shiftLeft_add_eq_or_of_lt hlo, Nat.shiftLeft_eq]
  omega

/-- The sign of a two-byte field is the sign of its high byte. -/
theorem le16_toInt (lo hi : Byte) : (le16 lo hi).toInt =
    if 128 ≤ hi.toNat then (lo.toNat : Int) + 256 * hi.toNat - 65536 else lo.toNat + 256 * hi.toNat := by
  have hlo := lo.isLt
  rw [BitVec.toInt_eq_toNat_cond, le16_toNat]
  split <;> split <;> omega

theorem byte_toInt (b : Byte) : b.toInt = if 128 ≤ b.toNat then (b.toNat : Int) - 256 else b.toNat := by
  rw [BitVec.toInt_eq_toNat_cond]
  split <;> split <;> omega

/-- A one-byte field is the byte itself. -/
theorem raw_one (src : Nat → Byte) (off : Nat) (signed : Bool) :
    raw src off 1 signed = if signed then (src off).toInt else (src off).toNat := by
  simp [raw, rawInt, rawWord]

/-- A two-byte field is the word of its two bytes. -/
theorem raw_two (src : Nat → Byte) (off : Nat) (signed : Bool) :
    raw src off 2 signed =
      if signed then (le16 (src off) (src (off + 1))).toInt else (le16 (src off) (src (off + 1))).toNat := by
  simp [raw, rawInt, rawWord]

/-- Settles O35. -/
theorem rawFieldsAreLittleEndian : Obligations.RawFieldsAreLittleEndian := by
  intro src off
  refine ⟨?_, ?_, ?_, ?_⟩
  · simp [raw_one]
  · simp [raw_one, byte_toInt]
  · simp [raw_two, le16_toNat]
  · simp [raw_two, le16_toInt]

/-- Settles O36: the two divisions are undone by multiplying with what was divided by. -/
theorem transformsAreExact : Obligations.TransformsAreExact := by
  refine ⟨fun num den add x hden => ⟨_, rfl, ?lin⟩, fun k x => ⟨_, rfl, fun hx => ?zero, fun hx => ?nonzero⟩,
    fun x => rfl⟩
  case lin =>
    have : (den : Rat) ≠ 0 := by exact_mod_cast hden.ne'
    field_simp
  case zero => exact if_pos hx
  case nonzero =>
    have : (x : Rat) ≠ 0 := by exact_mod_cast hx
    rw [if_neg hx, div_mul_cancel₀ _ this]

/-! ## A run of FEED_BYTE transactions (R96) -/

/-- The state after a sequence of bytes on the byte port. -/
def feedAll : List Byte → State → State
  | [], s => s
  | b :: rest, s => feedAll rest (feedByte b s)

theorem exec_feedByte (hport : s.cfg.transport.hasUart = true) (b : Byte) :
    exec (.feedByte b) s = .next (feedByte b s) := if_pos hport

theorem execAll_feedBytes (bs : List Byte) (hport : s.cfg.transport.hasUart = true) :
    execAll (feedBytes bs) s = .next (feedAll bs s) := by
  induction bs generalizing s with
  | nil => rfl
  | cons b rest ih =>
    calc execAll (feedBytes (b :: rest)) s
      _ = execAll (feedBytes rest) (feedByte b s) := execAll_cons_of_next (exec_feedByte hport b)
      _ = .next (feedAll rest (feedByte b s)) := ih (by rwa [feedByte_cfg])

theorem feedAll_append (bs cs : List Byte) (s : State) : feedAll (bs ++ cs) s = feedAll cs (feedAll bs s) := by
  induction bs generalizing s with
  | nil => rfl
  | cons b rest ih => exact ih (feedByte b s)

/-! ## A frame being taken (R126 to R128) -/

/-- The frame with length byte `len` that was opened in state `s₀`, after its bytes `taken`. The buffer holds them as
far as it reaches (R61), the CRC covers them up to frame byte `len - 2`, and frame byte `len - 1` is captured. -/
structure FrameTaken (s₀ : State) (len : Byte) (taken : List Byte) (s : State) : Prop where
  parserState : s.parserState = .readBody
  frameLen : s.frameLen = len
  rxCount : s.rxCount.toNat = taken.length
  crc : s.crcAcc = crcOf (crcUpdate s₀.cfg.crcUpdate) (taken.take (len.toNat - 1))
  crcLow : ∀ b, taken[len.toNat - 1]? = some b → s.crcRxLo = b
  bufForm : s.buf.wf = true
  bytes : ∀ n b, taken[n]? = some b → n < s₀.cfg.bufCap → s.bufRead n = b
  store : KeepsStore s₀ s
  host : SameHost s₀ s

/-- An accepted length byte is the first byte of its frame (R126). -/
theorem frameTaken_feedByte_length (hstate : s.parserState = .readLength) (hform : s.buf.wf = true)
    (hacc : lengthAccepted len = true) : FrameTaken s len [len] (feedByte len s) := by
  have hopen : feedByte len s = (openFrame len s).answer .none (some .lenAccept) := by
    rw [feedByte_readLength hstate, feedLength, if_pos hacc]
  have hlow := (lengthAccepted_iff.mp hacc).1
  rw [hopen]
  constructor
  case parserState => simp
  case frameLen => simp
  case rxCount => simp
  case crc =>
    rw [List.take_of_length_le (by rw [List.length_singleton]; omega)]
    simp [crcOf]
  case crcLow =>
    intro b hb
    rw [List.getElem?_eq_none (by rw [List.length_singleton]; omega)] at hb
    cases hb
  case bufForm => exact State.bufWrite_wf hform 0 len
  case bytes =>
    intro n b hb hn
    obtain ⟨rfl, rfl⟩ : n = 0 ∧ len = b := by simpa [List.getElem?_singleton] using hb
    rw [State.answer_bufRead, openFrame_bufRead hform, if_pos ⟨rfl, hn⟩]
  case store => constructor <;> simp
  case host => constructor <;> simp

/-- A byte before the completing one is stored and captured where it is the CRC low byte (R127, R128). -/
theorem feedByte_pending (hstate : s.parserState = .readBody) (hne : s.rxCount ≠ s.frameLen) :
    feedByte b s = (captureCrcLow (if s.rxCount.toNat + 1 = s.frameLen.toNat then b else s.crcRxLo)
      (bodyByte b s)).answer .none (some .body) := by
  rw [feedByte_readBody hstate, feedBody, if_neg hne]
  split
  · rfl
  · rw [← bodyByte_crcRxLo b s]; rfl

/-- The next byte of a frame joins the bytes the buffer holds (R61, R127). -/
theorem FrameTaken.bodyByte_bytes (h : FrameTaken s₀ len taken s) (n : Nat) (c : Byte)
    (hc : (taken ++ [b])[n]? = some c) (hn : n < s₀.cfg.bufCap) : (bodyByte b s).bufRead n = c := by
  rw [bodyByte_bufRead h.bufForm, h.rxCount, h.host.cfg]
  rcases Nat.lt_trichotomy n taken.length with hlt | rfl | hgt
  · rw [if_neg (by omega)]
    exact h.bytes n c (by rwa [List.getElem?_append_left hlt] at hc) hn
  · rw [if_pos ⟨rfl, hn⟩]
    simpa using hc
  · rw [List.getElem?_eq_none (by rw [List.length_append, List.length_singleton]; omega)] at hc
    cases hc

/-- A byte before the completing one is the frame's next byte (R127, R128). -/
theorem FrameTaken.feedByte (h : FrameTaken s₀ len taken s) (hlt : taken.length < len.toNat) :
    FrameTaken s₀ len (taken ++ [b]) (feedByte b s) := by
  have hne : s.rxCount ≠ s.frameLen := fun he => by
    have := h.rxCount
    rw [he, h.frameLen] at this
    omega
  rw [feedByte_pending h.parserState hne]
  constructor
  case parserState => simpa using h.parserState
  case frameLen => simpa using h.frameLen
  case rxCount =>
    have := len.isLt
    simp only [State.answer_rxCount, captureCrcLow_rxCount, bodyByte_rxCount, BitVec.toNat_add, one_toNat, h.rxCount,
      List.length_append, List.length_singleton]
    omega
  case crc =>
    simp only [State.answer_crcAcc, captureCrcLow_crcAcc, bodyByte_crcAcc, h.rxCount, h.frameLen, h.host.cfg, h.crc]
    split
    · rw [List.take_of_length_le (by omega),
        List.take_of_length_le (by rw [List.length_append, List.length_singleton]; omega)]
      simp [crcOf]
    · rw [List.take_append_of_le_length (by omega)]
  case crcLow =>
    intro c hc
    rw [State.answer_crcRxLo, captureCrcLow_crcRxLo, h.rxCount, h.frameLen]
    split
    · next hlast => simpa [← hlast] using hc
    · rw [List.getElem?_eq_none (by rw [List.length_append, List.length_singleton]; omega)] at hc
      cases hc
  case bufForm => exact State.bufWrite_wf h.bufForm _ b
  case bytes => exact h.bodyByte_bytes
  case store =>
    obtain ⟨hchans, hconnected, hpackets, herrors, hnew⟩ := h.store
    constructor <;> simpa
  case host =>
    obtain ⟨hcfg, hrequests⟩ := h.host
    constructor <;> simpa

theorem FrameTaken.feedAll (bs : List Byte) (h : FrameTaken s₀ len taken s)
    (hlen : taken.length + bs.length ≤ len.toNat) : FrameTaken s₀ len (taken ++ bs) (feedAll bs s) := by
  induction bs generalizing taken s with
  | nil => rwa [List.append_nil]
  | cons b rest ih =>
    rw [List.length_cons] at hlen
    rw [List.append_cons]
    exact ih (h.feedByte (by omega)) (by rw [List.length_append, List.length_singleton]; omega)

/-- From READ_LENGTH an accepted length byte and the bytes after it, up to the completing one, are one frame. -/
theorem frameTaken_feedAll (bs : List Byte) (hstate : s.parserState = .readLength) (hform : s.buf.wf = true)
    (hacc : lengthAccepted len = true) (hlen : bs.length + 1 ≤ len.toNat) :
    FrameTaken s len (len :: bs) (feedAll (len :: bs) s) :=
  (frameTaken_feedByte_length hstate hform hacc).feedAll bs (by rw [List.length_singleton]; omega)

/-! ## The completing byte (R129, R133, R134) -/

/-- The completing byte closes the frame whatever its outcome, with the byte stored (R129). -/
theorem feedByte_completes (hc : s.completes) :
    (feedByte b s).parserState = .seek0 ∧ (feedByte b s).rxCount = 0 ∧ (feedByte b s).buf = (bodyByte b s).buf := by
  cases feedByte_storeCase b s with
  | keeps pending _ _ => exact absurd hc pending
  | commits _ _ h => rw [h]; exact ⟨by simp, by simp, by simp [State.atCommit]⟩
  | crcError _ _ h => rw [h, crcFail_eq]; exact ⟨by simp, by simp, by simp [State.atCommit]⟩

theorem FrameTaken.completes (h : FrameTaken s₀ len taken s) (hlen : taken.length = len.toNat) : s.completes :=
  ⟨h.parserState, BitVec.eq_of_toNat_eq (by rw [h.rxCount, h.frameLen, hlen])⟩

/-- The comparison of R129 is the comparison of the trailer with the CRC of the length byte and the body (R130). -/
theorem FrameTaken.crcMatches_iff {body : List Byte} {lo hi : Byte} (h : FrameTaken s₀ len (len :: body ++ [lo]) s)
    (hlen : body.length + 2 = len.toNat) :
    s.crcMatches hi ↔ (crcOf (crcUpdate s₀.cfg.crcUpdate) (len :: body)).toNat = lo.toNat + 256 * hi.toNat := by
  have hcovered : (len :: body).length = len.toNat - 1 := by rw [List.length_cons]; omega
  have hlow : s.crcRxLo = lo := h.crcLow lo (by rw [← hcovered, List.getElem?_concat_length])
  rw [State.crcMatches, hlow, h.crc, List.take_left' hcovered, Nat.add_comm]

/-- Settles O48: all bytes but the last are taken, and the last one completes the frame. -/
theorem frameCommitsExactlyWhenItsCrcMatches : Obligations.FrameCommitsExactlyWhenItsCrcMatches := by
  intro s len body lo hi hport hform hstate hlow hhigh hlen
  have htaken := frameTaken_feedAll (body ++ [lo]) hstate hform (lengthAccepted_iff.mpr ⟨hlow, hhigh⟩)
    (by rw [List.length_append, List.length_singleton]; omega)
  have hrun : execAll (feedBytes (len :: body ++ [lo, hi])) s =
      .next (feedByte hi (feedAll (len :: (body ++ [lo])) s)) := by
    rw [execAll_feedBytes _ hport, List.append_cons _ lo, feedAll_append]
    rfl
  generalize feedAll (len :: (body ++ [lo])) s = u at htaken hrun
  have hcomplete := htaken.completes (by simpa using hlen)
  have hcrc := htaken.crcMatches_iff (hi := hi) hlen
  obtain ⟨hseek, hrx, hbuf⟩ := feedByte_completes (b := hi) hcomplete
  refine ⟨feedByte hi u, hrun, hseek, hrx, ⟨?_, ?_⟩, fun n b hb hn => ?_, ?_⟩
  · rw [feedByte_cfg, htaken.host.cfg]
  · rw [feedByte_requests, htaken.host.requests]
  · rw [bufRead_of_buf_eq hbuf]
    exact htaken.bodyByte_bytes n b (by simpa using hb) hn
  · obtain ⟨hchans, hconnected, hpackets, herrors, hnew⟩ := htaken.store
    cases feedByte_storeCase hi u with
    | keeps pending _ _ => exact absurd hcomplete pending
    | commits _ crc h =>
      rw [h]
      exact ⟨fun _ => by simp [hpackets, herrors], fun hno => absurd (hcrc.mp crc) hno⟩
    | crcError _ crc h =>
      rw [h, crcFail_eq]
      exact ⟨fun hyes => absurd (hcrc.mpr hyes) crc, fun _ =>
        ⟨by simp [herrors], by simp [hpackets], by simp [hconnected], by simp [hnew],
          sameChannels_of_chans_eq (by simp [hchans])⟩⟩

end Sys2Proof.Machine
end

section
/-! # The frame reassembler's family (40_frame_reassembler.md): the header search, the body, the outcome of a frame

Each arm is told by its equation from `Laws/Framer.lean`, and what it leaves alone by `OnlyMoves` (the header arms),
`feedByte_pending` (the body) and `feedByte_storeCase` (the store). Runs of bytes fall into two parts: the header
search (`Leads`) and the body (`BodyRun`). Neither speaks of the buffer: the statements on whole frames (O49, O50) do
not assume it canonical, so they cannot go through `FrameTaken`, which says what it holds. The CRC candidates (O51)
are made of injective mixing steps (`mix_injective`). -/

namespace Sys2Proof.Machine

variable {s t : State} {b len lo : Byte} {bs body : List Byte} {p : ParserState}

/-- Settles O6. -/
theorem stepWithoutRequestWaits : Obligations.StepWithoutRequestWaits := by
  intro s hwf hreq
  simp [step, State.fetch, hwf, hreq]

/-! ## What a FEED_BYTE leaves alone -/

theorem feedByte_sameHost (b : Byte) (s : State) : SameHost s (feedByte b s) :=
  ⟨feedByte_cfg b s, feedByte_requests b s⟩

theorem KeepsStore.sameStore (h : KeepsStore s t) : SameStore s t :=
  ⟨sameChannels_of_chans_eq h.chans, h.connected, h.packetCount, h.errorCount, h.newData⟩

/-- A byte that completes no frame leaves the store alone and is no successful decode (R138). -/
theorem feedByte_keepsStore (hpending : ¬ s.completes) :
    KeepsStore s (feedByte b s) ∧ isSuccess (feedByte b s).event = false := by
  cases feedByte_storeCase b s with
  | keeps _ store tag => exact ⟨store, tag⟩
  | commits complete _ _ => exact absurd complete hpending
  | crcError complete _ _ => exact absurd complete hpending

/-! ## The header search, byte by byte (R121 to R125) -/

theorem OnlyMoves.response (h : OnlyMoves s t) : t.response = .none := by
  obtain ⟨_, _, _, rfl⟩ := h
  rfl

/-- The states before the length byte search for it, and do nothing else. -/
theorem feedByte_onlyMoves (hlength : s.parserState ≠ .readLength) (hbody : s.parserState ≠ .readBody) :
    OnlyMoves s (feedByte b s) := by
  cases feedByte_cases b s with
  | moves _ h _ => exact h
  | opens st _ _ => exact absurd st hlength
  | body st _ _ _ => exact absurd st hbody
  | crcLow st _ _ _ => exact absurd st hbody
  | commit st _ _ _ => exact absurd st hbody
  | crcErr st _ _ _ => exact absurd st hbody

theorem feedHeader_parserState (h : Byte) (n : ParserState) (b : Byte) (s : State) :
    (feedHeader h n b s).parserState = if b = h then n else seek0 b := by
  unfold feedHeader
  split <;> rfl

theorem feedVersion_parserState (b : Byte) (s : State) : (feedVersion b s).parserState =
    if b = s.cfg.protoVersion then .readLength else if s.cfg.versionReeval then seek0 b else .seek0 := by
  unfold feedVersion
  split <;> rfl

/-- A transaction on the byte port that moves the parser alone. -/
theorem exec_feedByte_onlyMoves (hport : s.cfg.transport.hasUart = true) (h : OnlyMoves s (feedByte b s))
    (hstate : (feedByte b s).parserState = p) :
    ∃ t, exec (.feedByte b) s = .next t ∧ SameButParserState s t ∧ t.response = .none ∧ t.parserState = p :=
  ⟨_, exec_feedByte hport b, h.sameButParserState, h.response, hstate⟩

/-- SEEK_1 to SEEK_3 are one arm, with the byte each expects and the state it leads to (R122). -/
theorem feedByte_header {h : Byte} {n : ParserState}
    (harm : (p, h, n) ∈ [(.seek1, 0x00, .seek2), (.seek2, 0xAA, .seek3), (.seek3, 0x00, .seekVersion)])
    (hp : s.parserState = p) : feedByte b s = feedHeader h n b s := by
  simp only [List.mem_cons, List.not_mem_nil, or_false, Prod.mk.injEq] at harm
  rcases harm with ⟨rfl, rfl, rfl⟩ | ⟨rfl, rfl, rfl⟩ | ⟨rfl, rfl, rfl⟩
  · exact feedByte_seek1 hp b
  · exact feedByte_seek2 hp b
  · exact feedByte_seek3 hp b

/-- Settles O20: a mismatching byte goes where SEEK_0 would send it. -/
theorem headerSearchReevaluates : Obligations.HeaderSearchReevaluates := by
  intro s b hport
  refine ⟨fun hp => exec_feedByte_onlyMoves hport ?_ ?_, fun p n h harm hp => exec_feedByte_onlyMoves hport ?_ ?_⟩
  · exact feedByte_seek0 hp b ▸ feedSeek0_onlyMoves b s
  · exact feedByte_seek0 hp b ▸ rfl
  · exact feedByte_header harm hp ▸ feedHeader_onlyMoves h n b s
  · rw [feedByte_header harm hp, feedHeader_parserState]
    rfl

/-- Settles O21: the state after the version byte, with `seek0` written out under re-evaluation. -/
theorem versionByteMustMatch : Obligations.VersionByteMustMatch := by
  intro s b hport hp
  have hmoves := feedVersion_onlyMoves b s
  have hstate := feedVersion_parserState b s
  rw [← feedByte_seekVersion hp] at hmoves hstate
  refine ⟨_, exec_feedByte hport b, hmoves.sameButParserState, hmoves.response, fun heq => ?_, fun hne => ?_⟩
  · rw [hstate, if_pos heq]
  · rw [hstate, if_neg hne, ite_and]
    rfl

/-! ## The length byte (R124, R126) -/

theorem feedByte_lengthRejected (hp : s.parserState = .readLength) (h : b.toNat < 4 ∨ 48 < b.toNat) :
    feedByte b s = (s.moveTo .seek0).answer .none (some .lenReject) := by
  rw [feedByte_readLength hp, feedLength, if_neg (by rw [lengthAccepted_iff]; omega)]

theorem feedByte_lengthAccepted (hp : s.parserState = .readLength) (hlow : 4 ≤ b.toNat) (hhigh : b.toNat ≤ 48) :
    feedByte b s = (openFrame b s).answer .none (some .lenAccept) := by
  rw [feedByte_readLength hp, feedLength, if_pos (lengthAccepted_iff.mpr ⟨hlow, hhigh⟩)]

theorem not_completes_of_parserState_ne (hbody : s.parserState ≠ .readBody) : ¬ s.completes := fun hc => hbody hc.1

/-- Settles O22. -/
theorem lengthOutOfRangeIsDropped : Obligations.LengthOutOfRangeIsDropped := by
  intro s b hport hp hrange
  have hmoves : OnlyMoves s (feedByte b s) := ⟨.seek0, .lenReject, by simp, feedByte_lengthRejected hp hrange⟩
  exact ⟨_, exec_feedByte hport b, by rw [feedByte_lengthRejected hp hrange]; rfl, hmoves.response,
    hmoves.sameButParserState⟩

/-- Settles O23. -/
theorem acceptedLengthOpensTheFrame : Obligations.AcceptedLengthOpensTheFrame := by
  intro s b hport hp hform hlow hhigh
  have hopen := feedByte_lengthAccepted hp hlow hhigh
  have hread : ∀ a, (feedByte b s).bufRead a = if a = 0 ∧ 0 < s.cfg.bufCap then b else s.bufRead a := fun a => by
    rw [hopen, State.answer_bufRead, openFrame_bufRead hform]
  obtain ⟨hstore, _⟩ := feedByte_keepsStore (b := b) (not_completes_of_parserState_ne (s := s) (by simp [hp]))
  refine ⟨_, exec_feedByte hport b, ?_, ?_, ?_, ?_, ?_, fun hcap => ?stored, fun hcap => ?dropped,
    fun a ha => ?others, hstore.sameStore, feedByte_sameHost b s, ?_⟩
  case stored => rw [hread, if_pos ⟨rfl, hcap⟩]
  case dropped => rw [hread, if_neg (by omega)]
  case others => rw [hread, if_neg (by omega)]
  all_goals simp [hopen, crcInit]

/-! ## The body (R127, R128) -/

/-- A body byte is stored at its index and nowhere else, as far as the buffer reaches (R61). -/
theorem bufRead_of_buf_eq_bodyByte (hform : s.buf.wf = true) (hbuf : t.buf = (bodyByte b s).buf) :
    (s.rxCount.toNat < s.cfg.bufCap → t.bufRead s.rxCount.toNat = b) ∧
    ∀ a, a ≠ s.rxCount.toNat ∨ s.cfg.bufCap ≤ s.rxCount.toNat → t.bufRead a = s.bufRead a := by
  refine ⟨fun hcap => ?_, fun a ha => ?_⟩
  · rw [bufRead_of_buf_eq hbuf, bodyByte_bufRead hform, if_pos ⟨rfl, hcap⟩]
  · rw [bufRead_of_buf_eq hbuf, bodyByte_bufRead hform, if_neg (by omega)]

/-- Settles O25. -/
theorem bodyByteIsStoredAndCovered : Obligations.BodyByteIsStoredAndCovered := by
  intro s b hport hp hform hne
  have hnext := feedByte_pending (b := b) hp hne
  obtain ⟨hstored, hothers⟩ := bufRead_of_buf_eq_bodyByte (t := feedByte b s) (b := b) hform (by rw [hnext]; rfl)
  obtain ⟨hstore, _⟩ := feedByte_keepsStore (b := b) fun hc : s.completes => hne hc.2
  refine ⟨_, exec_feedByte hport b, ?_, ?_, ?_, fun hcov => ?covered, fun hcov => ?uncovered, fun hlast => ?captured,
    fun hlast => ?kept, hstored, hothers, hstore.sameStore, feedByte_sameHost b s, ?_⟩
  case covered => simp [hnext, show s.rxCount.toNat + 2 ≤ s.frameLen.toNat by omega]
  case uncovered => simp [hnext, show ¬ s.rxCount.toNat + 2 ≤ s.frameLen.toNat by omega]
  case captured => simp [hnext, show s.rxCount.toNat + 1 = s.frameLen.toNat by omega]
  case kept => simp [hnext, show ¬ s.rxCount.toNat + 1 = s.frameLen.toNat by omega]
  all_goals simp [hnext, hp]

/-! ## The completing byte (R129, R133, R134) -/

theorem feedByte_of_commits (h : Commits b s) : feedByte b s = commitFrame (s.atCommit b) := by
  cases feedByte_storeCase b s with
  | keeps pending _ _ => exact absurd h.completes pending
  | commits _ _ ht => exact ht
  | crcError _ crc _ => exact absurd h.crc crc

theorem feedByte_of_crcMismatch (hc : s.completes) (hcrc : ¬ s.crcMatches b) :
    feedByte b s = crcFail (s.atCommit b) := by
  cases feedByte_storeCase b s with
  | keeps pending _ _ => exact absurd hc pending
  | commits _ crc _ => exact absurd crc hcrc
  | crcError _ _ ht => exact ht

theorem State.atCommit_crcAcc_of_completes (hc : s.completes) : (s.atCommit b).crcAcc = s.crcAcc :=
  bodyByte_crcAcc_of_completes hc.2

theorem State.atCommit_crcRxLo : (s.atCommit b).crcRxLo = s.crcRxLo := bodyByte_crcRxLo b s

/-- Settles O26. -/
theorem matchingCrcCommitsTheFrame : Obligations.MatchingCrcCommitsTheFrame := by
  intro s b h hform
  have hnext := feedByte_of_commits h
  obtain ⟨hseek, hrx, hbuf⟩ := feedByte_completes (b := b) h.completes
  obtain ⟨hstored, hothers⟩ := bufRead_of_buf_eq_bodyByte hform hbuf
  refine ⟨_, exec_feedByte h.port b, hseek, hrx, ?_, ?_, ?_, ?_, ?_, ?_, ?_, ?_, hstored, hothers,
    feedByte_sameHost b s, ?_⟩
  all_goals simp [hnext, State.atCommit_crcAcc_of_completes h.completes, State.atCommit_crcRxLo]

/-- Settles O27. -/
theorem crcMismatchOnlyCountsAnError : Obligations.CrcMismatchOnlyCountsAnError := by
  intro s b hport hc hcrc hform
  have hnext := (feedByte_of_crcMismatch hc hcrc).trans (crcFail_eq _)
  obtain ⟨hseek, hrx, hbuf⟩ := feedByte_completes (b := b) hc
  obtain ⟨hstored, hothers⟩ := bufRead_of_buf_eq_bodyByte hform hbuf
  refine ⟨_, exec_feedByte hport b, hseek, hrx, ?_, ?_, ?_, ?_, sameChannels_of_chans_eq ?_, ?_, ?_, ?_, hstored,
    hothers, feedByte_sameHost b s, ?_⟩
  all_goals simp [hnext, State.atCommit_crcAcc_of_completes hc, State.atCommit_crcRxLo]

/-! ## Runs that complete no frame (R138) -/

theorem KeepsStore.refl (s : State) : KeepsStore s s := ⟨rfl, rfl, rfl, rfl, rfl⟩

theorem KeepsStore.trans {u : State} (h : KeepsStore s t) (h' : KeepsStore t u) : KeepsStore s u :=
  ⟨h'.chans.trans h.chans, h'.connected.trans h.connected, h'.packetCount.trans h.packetCount,
    h'.errorCount.trans h.errorCount, h'.newData.trans h.newData⟩

theorem feedAll_sameHost (bs : List Byte) (s : State) : SameHost s (feedAll bs s) := by
  induction bs generalizing s with
  | nil => exact ⟨rfl, rfl⟩
  | cons b rest ih =>
    obtain ⟨hcfg, hreq⟩ := ih (feedByte b s)
    exact ⟨hcfg.trans (feedByte_cfg b s), hreq.trans (feedByte_requests b s)⟩

theorem feedAll_keepsStore (hpending : neverCompletes bs s) : KeepsStore s (feedAll bs s) := by
  induction bs generalizing s with
  | nil => exact KeepsStore.refl s
  | cons b rest ih => exact (feedByte_keepsStore hpending.1).1.trans (ih hpending.2)

/-- Settles O46. -/
theorem partialInputLeavesTheStore : Obligations.PartialInputLeavesTheStore := fun bs s hport hpending =>
  ⟨_, execAll_feedBytes bs hport, (feedAll_keepsStore hpending).sameStore, feedAll_sameHost bs s⟩

theorem neverCompletes_append {cs : List Byte} (h : neverCompletes bs s) (h' : neverCompletes cs (feedAll bs s)) :
    neverCompletes (bs ++ cs) s := by
  induction bs generalizing s with
  | nil => exact h'
  | cons b rest ih => exact ⟨h.1, ih h.2 h'⟩

/-! ## The header search as a run (R136) -/

/-- The bytes `bs` take the parser from the state `s` to `p`; on the way no frame is read and nothing else changes. -/
structure Leads (bs : List Byte) (s : State) (p : ParserState) : Prop where
  parserState : (feedAll bs s).parserState = p
  same : SameButParserState s (feedAll bs s)
  pending : neverCompletes bs s

theorem SameButParserState.trans {u : State} (h : SameButParserState s t) (h' : SameButParserState t u) :
    SameButParserState s u := by
  obtain ⟨hlen, hrx, hcrc, hlo, hbytes, ⟨⟨hval, hvalid⟩, hconn, hpackets, herrors, hnew⟩, ⟨hcfg, hreq⟩⟩ := h
  obtain ⟨hlen', hrx', hcrc', hlo', hbytes', ⟨⟨hval', hvalid'⟩, hconn', hpackets', herrors', hnew'⟩,
    ⟨hcfg', hreq'⟩⟩ := h'
  exact ⟨hlen'.trans hlen, hrx'.trans hrx, hcrc'.trans hcrc, hlo'.trans hlo, fun i => (hbytes' i).trans (hbytes i),
    ⟨⟨fun c => (hval' c).trans (hval c), fun c => (hvalid' c).trans (hvalid c)⟩, hconn'.trans hconn,
      hpackets'.trans hpackets, herrors'.trans herrors, hnew'.trans hnew⟩, ⟨hcfg'.trans hcfg, hreq'.trans hreq⟩⟩

theorem Leads.nil (h : s.parserState = p) : Leads [] s p :=
  ⟨h, ⟨rfl, rfl, rfl, rfl, fun _ => rfl, ⟨⟨fun _ => rfl, fun _ => rfl⟩, rfl, rfl, rfl, rfl⟩, ⟨rfl, rfl⟩⟩, trivial⟩

theorem Leads.cons (hlength : s.parserState ≠ .readLength) (hbody : s.parserState ≠ .readBody)
    (h : Leads bs (feedByte b s) p) : Leads (b :: bs) s p :=
  ⟨h.parserState, (feedByte_onlyMoves hlength hbody).sameButParserState.trans h.same,
    not_completes_of_parserState_ne hbody, h.pending⟩

/-- From every state of the search the first header byte leads to SEEK_1 (R121 to R123, R125). -/
theorem feedByte_hdr0_of_searching (h : s.searching) : (feedByte hdr0 s).parserState = .seek1 := by
  rcases h with hp | hp | hp | hp | ⟨hp, hreeval, hversion⟩
  · rw [feedByte_seek0 hp]; rfl
  · rw [feedByte_seek1 hp, feedHeader_parserState]; rfl
  · rw [feedByte_seek2 hp, feedHeader_parserState]; rfl
  · rw [feedByte_seek3 hp, feedHeader_parserState]; rfl
  · rw [feedByte_seekVersion hp, feedVersion_parserState, if_neg hversion.symm, if_pos hreeval]; rfl

/-- From every state of the search the header leads to SEEK_VERSION, where the bytes after it go on. -/
theorem Leads.header (hsearch : s.searching)
    (h : ∀ t : State, t.parserState = .seekVersion → t.cfg = s.cfg → Leads bs t p) :
    Leads (hdr0 :: hdr1 :: hdr2 :: hdr3 :: bs) s p := by
  have h1 := feedByte_hdr0_of_searching hsearch
  have h2 : (feedByte hdr1 (feedByte hdr0 s)).parserState = .seek2 := by
    rw [feedByte_seek1 h1, feedHeader_parserState, if_pos rfl]
  have h3 : (feedByte hdr2 (feedByte hdr1 (feedByte hdr0 s))).parserState = .seek3 := by
    rw [feedByte_seek2 h2, feedHeader_parserState, if_pos rfl]
  have h4 : (feedByte hdr3 (feedByte hdr2 (feedByte hdr1 (feedByte hdr0 s)))).parserState = .seekVersion := by
    rw [feedByte_seek3 h3, feedHeader_parserState, if_pos rfl]
  have hout : s.parserState ≠ .readLength ∧ s.parserState ≠ .readBody := by
    rcases hsearch with hp | hp | hp | hp | ⟨hp, _⟩ <;> simp [hp]
  refine .cons hout.1 hout.2 (.cons (by simp [h1]) (by simp [h1]) (.cons (by simp [h2]) (by simp [h2])
    (.cons (by simp [h3]) (by simp [h3]) (h _ h4 ?_))))
  simp only [feedByte_cfg]

/-- From every state of the search the header and the version byte lead to READ_LENGTH (R80, R123). -/
theorem Leads.preamble (hsearch : s.searching) : Leads (preamble s.cfg.protoVersion) s .readLength := by
  refine .header hsearch fun t ht hcfg => .cons (by simp [ht]) (by simp [ht]) (.nil ?_)
  rw [feedByte_seekVersion ht, feedVersion_parserState, if_pos (by rw [hcfg])]

/-! ## The body as a run (R127, R128) -/

/-- The bytes `bs` are body bytes of the frame open in `s`, and `t` is the state after them. They enter the running
CRC, unless they reach the CRC low byte. -/
structure BodyRun (bs : List Byte) (s t : State) : Prop where
  parserState : t.parserState = .readBody
  frameLen : t.frameLen = s.frameLen
  rxCount : t.rxCount.toNat = s.rxCount.toNat + bs.length
  crc : s.rxCount.toNat + bs.length < s.frameLen.toNat → t.crcAcc = bs.foldl (crcUpdate s.cfg.crcUpdate) s.crcAcc
  pending : neverCompletes bs s

theorem feedAll_bodyRun (hp : s.parserState = .readBody) (hlen : s.rxCount.toNat + bs.length ≤ s.frameLen.toNat) :
    BodyRun bs s (feedAll bs s) := by
  induction bs generalizing s with
  | nil => exact ⟨hp, rfl, rfl, fun _ => rfl, trivial⟩
  | cons b rest ih =>
    rw [List.length_cons] at hlen
    have hne : s.rxCount ≠ s.frameLen := fun he => by rw [he] at hlen; omega
    have hnext := feedByte_pending (b := b) hp hne
    have hframe : (feedByte b s).frameLen = s.frameLen := by simp [hnext]
    have hrx : (feedByte b s).rxCount.toNat = s.rxCount.toNat + 1 := by
      have := s.frameLen.isLt
      rw [hnext, State.answer_rxCount, captureCrcLow_rxCount, bodyByte_rxCount, BitVec.toNat_add, one_toNat]
      omega
    have hrest := ih (s := feedByte b s) (by simp [hnext, hp]) (by rw [hrx, hframe]; omega)
    refine ⟨hrest.parserState, hrest.frameLen.trans hframe, ?_, fun hcov => ?_, fun hc => hne hc.2, hrest.pending⟩
    · exact hrest.rxCount.trans (by rw [hrx, List.length_cons]; omega)
    · rw [List.length_cons] at hcov
      have hcrc : (feedByte b s).crcAcc = crcUpdate s.cfg.crcUpdate s.crcAcc b := by
        simp [hnext, show s.rxCount.toNat + 2 ≤ s.frameLen.toNat by omega]
      exact (hrest.crc (by rw [hrx, hframe]; omega)).trans (by rw [hcrc, feedByte_cfg, List.foldl_cons])

theorem feedByte_seek0_parserState (hp : s.parserState = .seek0) (hb : b ≠ hdr0) :
    (feedByte b s).parserState = .seek0 := by
  rw [feedByte_seek0 hp]
  exact if_neg hb

/-- Settles O47: the search finds the header; READ_LENGTH drops its first byte (85 is no length) and SEEK_0 the
others; the body takes all four as data. -/
theorem headerIsFoundFromEverySearchingState : Obligations.HeaderIsFoundFromEverySearchingState := by
  intro s hport
  refine ⟨fun hsearch => ?search, fun hp => ?length, fun hp hlen => ?body⟩
  case search =>
    have h := Leads.header hsearch fun t ht _ => .nil ht
    exact ⟨_, execAll_feedBytes _ hport, h.parserState, h.same⟩
  case length =>
    have h1 : (feedByte 0x55 s).parserState = .seek0 := by
      rw [feedByte_lengthRejected hp (by decide)]; rfl
    have h2 := feedByte_seek0_parserState (b := 0x00) h1 (by decide)
    have h3 := feedByte_seek0_parserState (b := 0xAA) h2 (by decide)
    exact ⟨_, execAll_feedBytes _ hport, feedByte_seek0_parserState (b := 0x00) h3 (by decide)⟩
  case body =>
    have h := feedAll_bodyRun (bs := [0x55, 0x00, 0xAA, 0x00]) hp hlen
    exact ⟨_, execAll_feedBytes _ hport, h.parserState, h.rxCount⟩

/-! ## A whole frame (R137) -/

/-- The CRC low byte, frame byte `frame_len - 1`, is captured and not covered (R127, R128). -/
theorem feedByte_crcLow (hp : s.parserState = .readBody) (hlast : s.rxCount.toNat + 1 = s.frameLen.toNat) :
    (feedByte lo s).crcAcc = s.crcAcc ∧ (feedByte lo s).crcRxLo = lo := by
  rw [feedByte_pending hp fun he => by rw [he] at hlast; omega]
  simp [hlast, show ¬ s.rxCount.toNat + 2 ≤ s.frameLen.toNat by omega]

/-- From READ_LENGTH a length byte, its body and the CRC low byte bring the frame to its completing byte, which
compares the trailer with the CRC of the length byte and the body (R129, R130). -/
theorem feedAll_length_body_crcLow (hp : s.parserState = .readLength) (hlow : 4 ≤ len.toNat) (hhigh : len.toNat ≤ 48)
    (hlen : body.length + 2 = len.toNat) :
    neverCompletes (len :: (body ++ [lo])) s ∧ (feedAll (len :: (body ++ [lo])) s).completes ∧
    (feedAll (len :: (body ++ [lo])) s).crcAcc = crcOf (crcUpdate s.cfg.crcUpdate) (len :: body) ∧
    (feedAll (len :: (body ++ [lo])) s).crcRxLo = lo := by
  have hopen := feedByte_lengthAccepted hp hlow hhigh
  have hrx : (feedByte len s).rxCount.toNat = 1 := by simp [hopen]
  have hframe : (feedByte len s).frameLen = len := by simp [hopen]
  have hopened : (feedByte len s).parserState = .readBody := by simp [hopen]
  have hcrc : (feedByte len s).crcAcc = crcUpdate s.cfg.crcUpdate crcInit len := by simp [hopen]
  have hall : BodyRun (body ++ [lo]) _ (feedAll (len :: (body ++ [lo])) s) :=
    feedAll_bodyRun hopened (by rw [hrx, hframe, List.length_append, List.length_singleton]; omega)
  have hbody := feedAll_bodyRun (bs := body) hopened (by rw [hrx, hframe]; omega)
  have hlast : (feedAll body (feedByte len s)).rxCount.toNat + 1 =
      (feedAll body (feedByte len s)).frameLen.toNat := by
    rw [hbody.rxCount, hbody.frameLen, hrx, hframe]; omega
  obtain ⟨hkept, hcaptured⟩ := feedByte_crcLow (lo := lo) hbody.parserState hlast
  have hsplit : feedAll (len :: (body ++ [lo])) s = feedByte lo (feedAll body (feedByte len s)) :=
    feedAll_append body [lo] (feedByte len s)
  refine ⟨⟨not_completes_of_parserState_ne (by simp [hp]), hall.pending⟩,
    ⟨hall.parserState, BitVec.eq_of_toNat_eq ?_⟩, ?_, by rw [hsplit, hcaptured]⟩
  · rw [hall.rxCount, hall.frameLen, hrx, hframe, List.length_append, List.length_singleton]
    omega
  · rw [hsplit, hkept, hbody.crc (by rw [hrx, hframe]; omega), hcrc, feedByte_cfg, crcOf, List.foldl_cons]

theorem successes_feedBytes_cons (hport : s.cfg.transport.hasUart = true) (b : Byte) (bs : List Byte) :
    successes (feedBytes (b :: bs)) s =
      (if isSuccess (feedByte b s).event then 1 else 0) + successes (feedBytes bs) (feedByte b s) := by
  rw [feedBytes, List.map_cons, successes, exec_feedByte hport]
  rfl

/-- A run that completes no frame before its last byte has a successful decode there or none (R242). -/
theorem successes_feedBytes_concat (hport : s.cfg.transport.hasUart = true) (hpending : neverCompletes bs s) :
    successes (feedBytes (bs ++ [b])) s = if isSuccess (feedByte b (feedAll bs s)).event then 1 else 0 := by
  induction bs generalizing s with
  | nil => exact successes_feedBytes_cons hport b []
  | cons a rest ih =>
    obtain ⟨_, htag⟩ := feedByte_keepsStore (b := a) hpending.1
    rw [List.cons_append, successes_feedBytes_cons hport, htag, ih (by rwa [feedByte_cfg]) hpending.2]
    exact Nat.zero_add _

/-- A word is its high byte and its low byte, as a trailer has them (R62, R96). -/
theorem le16_bytes (c : Half) : le16 (c.setWidth 8) ((c >>> 8).setWidth 8) = c := by
  apply BitVec.eq_of_toNat_eq
  simp only [le16_toNat, BitVec.toNat_setWidth, BitVec.toNat_ushiftRight, Nat.shiftRight_eq_div_pow]
  omega

/-- A frame with the trailer `c`, sent to the state `s`, reaches its completing byte in the state `u`. -/
structure FrameRun (frame : List Byte) (c : Half) (s u : State) : Prop where
  run : execAll (feedFrameBadCrc s.cfg.protoVersion frame c) s = .next (feedByte ((c >>> 8).setWidth 8) u)
  count : successes (feedFrameBadCrc s.cfg.protoVersion frame c) s =
    if isSuccess (feedByte ((c >>> 8).setWidth 8) u).event then 1 else 0
  completes : u.completes
  crc : u.crcMatches ((c >>> 8).setWidth 8) ↔ crcOf (crcUpdate s.cfg.crcUpdate) frame = c
  store : KeepsStore s u
  host : SameHost s u

/-- From every searching state a frame is found, whatever its trailer (R136, R137). -/
theorem exists_frameRun (hport : s.cfg.transport.hasUart = true) (hsearch : s.searching) (hlow : 4 ≤ len.toNat)
    (hhigh : len.toNat ≤ 48) (hlen : body.length + 2 = len.toNat) (c : Half) :
    ∃ u, FrameRun (len :: body) c s u := by
  have hlead := Leads.preamble hsearch
  obtain ⟨hpending, hcomplete, hcrc, hlo⟩ :=
    feedAll_length_body_crcLow (lo := c.setWidth 8) hlead.parserState hlow hhigh hlen
  have hnever := neverCompletes_append hlead.pending hpending
  have hsplit : feedFrameBadCrc s.cfg.protoVersion (len :: body) c = feedBytes
      ((preamble s.cfg.protoVersion ++ len :: (body ++ [c.setWidth 8])) ++ [(c >>> 8).setWidth 8]) := by
    simp [feedFrameBadCrc]
  rw [← feedAll_append] at hcomplete hcrc hlo
  refine ⟨feedAll (preamble s.cfg.protoVersion ++ len :: (body ++ [c.setWidth 8])) s, ?_, ?_, hcomplete, ?_,
    feedAll_keepsStore hnever, feedAll_sameHost _ s⟩
  · rw [hsplit, execAll_feedBytes _ hport, feedAll_append _ [_]]; rfl
  · rw [hsplit, successes_feedBytes_concat hport hnever]
  · rw [crcMatches_iff, hcrc, hlo, le16_bytes, hlead.same.host.cfg]

/-- Settles O49: the trailer is the frame's CRC, so the completing byte commits the frame. -/
theorem validFrameIsDecodedOnce : Obligations.ValidFrameIsDecodedOnce := by
  intro s len body hport hsearch hlow hhigh hlen
  obtain ⟨u, h⟩ := exists_frameRun hport hsearch hlow hhigh hlen (crcOf (crcUpdate s.cfg.crcUpdate) (len :: body))
  have hport' : u.cfg.transport.hasUart = true := h.host.cfg ▸ hport
  have hnext := feedByte_of_commits ⟨hport', h.completes, h.crc.mpr rfl⟩
  refine ⟨_, h.run, ?_, ?_, ?_, ?_, ?_, ⟨?_, ?_⟩, h.count.trans ?_⟩
  all_goals simp [hnext, h.store.packetCount, h.store.errorCount, h.host.cfg, h.host.requests, isSuccess]

/-- Settles O50: the trailer is the CRC of the frame as it was, which the law tells from the CRC of the frame as it
is. -/
theorem singleBitErrorIsRejected : Obligations.SingleBitErrorIsRejected := by
  intro s len body k j hlaw hport hsearch hlow hhigh hlen hk hj
  have hflip : (flipBit body k j).length + 2 = len.toNat := by rw [flipBit, List.length_modify, hlen]
  obtain ⟨u, h⟩ := exists_frameRun hport hsearch hlow hhigh hflip (crcOf (crcUpdate s.cfg.crcUpdate) (len :: body))
  have hmismatch := fun hcrc => hlaw len body k j hlow hhigh hlen hk hj (h.crc.mp hcrc).symm
  have hnext := (feedByte_of_crcMismatch h.completes hmismatch).trans (crcFail_eq _)
  refine ⟨_, h.run, ?_, ?_, ?_, ?_, sameChannels_of_chans_eq ?_⟩
  all_goals simp [hnext, h.store.packetCount, h.store.errorCount, h.store.connected, h.store.newData, h.store.chans]

/-! ## The candidates' updates lose nothing (R131, R132)

By `detectsSingleBitErrors_of_injective` it is enough that an update is injective in either argument. Both candidates
are made of mixing steps `x ^^^ f x` with an `f` that is additive and comes to 0 when repeated. -/

/-- Were two words to mix to the same word, `f` would fix their difference, which is then 0. -/
theorem mix_injective {w : Nat} {f : BitVec w → BitVec w} (hadd : ∀ x y, f (x ^^^ y) = f x ^^^ f y)
    (hzero : ∀ x, f (f (f x)) = 0) : Function.Injective fun x => x ^^^ f x := by
  intro x y h
  have hmix : (x ^^^ y) ^^^ f (x ^^^ y) = 0 := by
    calc (x ^^^ y) ^^^ f (x ^^^ y)
      _ = (x ^^^ f x) ^^^ (y ^^^ f y) := by rw [hadd]; ac_rfl
      _ = 0 := BitVec.xor_eq_zero_iff.mpr h
  have hfix : f (x ^^^ y) = x ^^^ y := (BitVec.xor_eq_zero_iff.mp hmix).symm
  have hdiff := hzero (x ^^^ y)
  rw [hfix, hfix, hfix] at hdiff
  exact BitVec.xor_eq_zero_iff.mp hdiff

/-- A shift comes to 0 once it has been repeated over the whole width. -/
theorem mixLeft_injective {w k : Nat} (hk : w ≤ k + k + k) : Function.Injective fun x : BitVec w => x ^^^ (x <<< k) :=
  mix_injective (fun x y => BitVec.shiftLeft_xor_distrib x y k) fun x => by
    rw [← BitVec.shiftLeft_add, ← BitVec.shiftLeft_add]
    exact BitVec.shiftLeft_eq_zero (by omega)

theorem mixRight_injective {w k : Nat} (hk : w ≤ k + k + k) : Function.Injective fun x : BitVec w => x ^^^ (x >>> k) :=
  mix_injective (fun x y => BitVec.ushiftRight_xor_distrib x y k) fun x => by
    rw [← BitVec.shiftRight_add, ← BitVec.shiftRight_add]
    exact BitVec.ushiftRight_eq_zero (by omega)

theorem xor_and_distrib {w : Nat} (x y m : BitVec w) : (x ^^^ y) &&& m = (x &&& m) ^^^ (y &&& m) := by
  ext i
  simp [Bool.and_xor_distrib_right]

/-- Candidate A's mixing of its low byte to the right. -/
theorem mixLowRight_injective : Function.Injective fun x : Half => x ^^^ ((x &&& 0x00FF) >>> 4) := by
  refine mix_injective (f := fun x => (x &&& 0x00FF) >>> 4) (fun x y => ?_) fun x => ?_
  · rw [xor_and_distrib, BitVec.ushiftRight_xor_distrib]
  · ext i hi
    interval_cases i <;> simp

/-- Candidate A's mixing of its low byte to the left. -/
theorem mixLowLeft_injective : Function.Injective fun x : Half => x ^^^ ((x &&& 0x00FF) <<< 5) := by
  refine mix_injective (f := fun x => (x &&& 0x00FF) <<< 5) (fun x y => ?_) fun x => ?_
  · rw [xor_and_distrib, BitVec.shiftLeft_xor_distrib]
  · ext i hi
    interval_cases i <;> simp

/-- Candidate A loses nothing of the sum of the running CRC, its bytes exchanged, and the new byte. -/
theorem crcCandA_cancel {c c' : Half} {d d' : Byte} (h : crcCandA c d = crcCandA c' d') :
    (c >>> 8 ||| c <<< 8) ^^^ d.setWidth 16 = (c' >>> 8 ||| c' <<< 8) ^^^ d'.setWidth 16 :=
  mixLowRight_injective (mixLeft_injective (k := 12) (by decide) (mixLowLeft_injective h))

theorem detectsSingleBitErrors_crcCandA : DetectsSingleBitErrors crcCandA := by
  refine detectsSingleBitErrors_of_injective _ (fun d c c' h => ?_) fun c d d' h => ?_
  · have hswap := (BitVec.xor_left_inj _).mp (crcCandA_cancel h)
    have hback : ∀ x : Half, x = (x >>> 8 ||| x <<< 8) >>> 8 ||| (x >>> 8 ||| x <<< 8) <<< 8 := fun x => by
      ext i hi
      interval_cases i <;> simp
    rw [hback c, hswap, ← hback c']
  · simpa using congrArg (BitVec.setWidth 8) ((BitVec.xor_right_inj _).mp (crcCandA_cancel h))

/-- The byte candidate B folds in, from the new byte and the low byte of the running CRC. -/
def candBByte (c : Half) (d : Byte) : Byte := (d ^^^ c.setWidth 8) ^^^ ((d ^^^ c.setWidth 8) <<< 4)

/-- Candidate B's high byte is the folded byte, mixed. -/
theorem crcCandB_high (c : Half) (d : Byte) :
    ((crcCandB c d) >>> 8).setWidth 8 = candBByte c d ^^^ (candBByte c d >>> 5) := by
  rw [crcCandB, ← candBByte]
  generalize candBByte c d = t
  ext i hi
  interval_cases i <;> simp

/-- Candidate B's low byte is the high byte of the running CRC, with the folded byte laid over it. -/
theorem crcCandB_low (c : Half) (d : Byte) :
    (crcCandB c d).setWidth 8 = (c >>> 8).setWidth 8 ^^^ (candBByte c d >>> 4 ^^^ candBByte c d <<< 3) := by
  rw [crcCandB, ← candBByte]
  generalize candBByte c d = t
  ext i hi
  interval_cases i <;> simp

/-- Candidate B loses nothing of the sum of the new byte and the low byte of the running CRC, nor of its high byte. -/
theorem crcCandB_cancel {c c' : Half} {d d' : Byte} (h : crcCandB c d = crcCandB c' d') :
    d ^^^ c.setWidth 8 = d' ^^^ c'.setWidth 8 ∧ (c >>> 8).setWidth 8 = ((c' >>> 8).setWidth 8 : Byte) := by
  have hfold : candBByte c d = candBByte c' d' := by
    refine mixRight_injective (k := 5) (by decide) ?_
    simpa only [crcCandB_high] using congrArg (fun x : Half => (x >>> 8).setWidth 8) h
  refine ⟨mixLeft_injective (k := 4) (by decide) hfold, ?_⟩
  have hlow := congrArg (BitVec.setWidth 8) h
  rw [crcCandB_low, crcCandB_low, hfold] at hlow
  exact (BitVec.xor_left_inj _).mp hlow

theorem detectsSingleBitErrors_crcCandB : DetectsSingleBitErrors crcCandB := by
  refine detectsSingleBitErrors_of_injective _ (fun d c c' h => ?_) fun c d d' h => ?_
  · obtain ⟨hlow, hhigh⟩ := crcCandB_cancel h
    rw [← le16_bytes c, ← le16_bytes c', (BitVec.xor_right_inj _).mp hlow, hhigh]
  · exact (BitVec.xor_left_inj _).mp (crcCandB_cancel h).1

/-- Settles O51: either candidate is injective in either argument. -/
theorem candidatesDetectSingleBitErrors : Obligations.CandidatesDetectSingleBitErrors :=
  ⟨detectsSingleBitErrors_crcCandA, detectsSingleBitErrors_crcCandB⟩

end Sys2Proof.Machine
end

section
/-! # The field decoders' family (41_field_decoders.md): what a commit writes, and the rendering of a float channel

A commit is the fast decoder followed by the slow one. Three rules say what the pair does to one channel: the last
entry of the fast table that names it (`commitFrame_fast`), the last applied entry of the selected slot that names it
(`commitFrame_slow`), and a channel that no applied entry names (`commitFrame_unnamed`). Which entries the slow decoder
applies is said by an equation per case (`slowEntries_eq_slot` and the two after it). O28 to O34 follow. -/

namespace Sys2Proof.Machine

variable {s t : State} {b : Byte} {c : Nat} {e : FieldEntry} {before after slot : List FieldEntry}

/-! ## Which fields are available (R164) -/

theorem fieldAvailable_iff (a w : Nat) : fieldAvailable s.cfg.shortFrame s.frameLen a w = true ↔ Available s a w := by
  unfold fieldAvailable Available
  cases s.cfg.shortFrame with
  | stale => simp
  | skip => simp only [decide_eq_true_eq, reduceCtorEq, false_or]; omega

theorem applies_iff (base : Nat) (e : FieldEntry) : applies s base e = true ↔ Available s (base + e.off) e.width :=
  fieldAvailable_iff _ _

theorem applies_eq_false_iff (base : Nat) (e : FieldEntry) :
    applies s base e = false ↔ ¬ Available s (base + e.off) e.width := by
  rw [← applies_iff, Bool.not_eq_true]

/-- Storing the completing byte changes nothing that availability depends on. -/
@[simp] theorem available_atCommit (a w : Nat) : Available (s.atCommit b) a w ↔ Available s a w := by
  simp [Available]

/-! ## Which entries the slow decoder applies (R170, R171) -/

theorem slowEntries_eq_slot (hsel : Available s s.cfg.selOff 1) (hlt : (s.bufRead s.cfg.selOff).toNat < 10)
    (hslot : s.cfg.slowTable[(s.bufRead s.cfg.selOff).toNat]? = some slot) : slowEntries s = slot := by
  simp [slowEntries, (fieldAvailable_iff _ _).mpr hsel, nSlots, hlt, List.getD_eq_getElem?_getD, hslot]

theorem slowEntries_eq_nil_of_unavailable (hsel : ¬ Available s s.cfg.selOff 1) : slowEntries s = [] :=
  if_neg fun h => hsel ((fieldAvailable_iff _ _).mp h)

theorem slowEntries_eq_nil_of_selector (hge : 10 ≤ (s.bufRead s.cfg.selOff).toNat) : slowEntries s = [] := by
  simp [slowEntries, nSlots, Nat.not_lt.mpr hge]

/-- An applied entry belongs to the slot the selector names. -/
theorem slot_of_mem_slowEntries (h : e ∈ slowEntries s) :
    ∃ slot, s.cfg.slowTable[(s.bufRead s.cfg.selOff).toNat]? = some slot ∧ e ∈ slot := by
  by_cases hsel : Available s s.cfg.selOff 1
  · by_cases hlt : (s.bufRead s.cfg.selOff).toNat < 10
    · cases hslot : s.cfg.slowTable[(s.bufRead s.cfg.selOff).toNat]? with
      | none => simp [slowEntries, List.getD_eq_getElem?_getD, hslot] at h
      | some slot => exact ⟨slot, rfl, slowEntries_eq_slot hsel hlt hslot ▸ h⟩
    · rw [slowEntries_eq_nil_of_selector (Nat.not_lt.mp hlt)] at h
      cases h
  · rw [slowEntries_eq_nil_of_unavailable hsel] at h
    cases h

theorem nineChecks_of_wellFormed {cfg : Config} (hwf : cfg.wellFormed = true) : NineChecks cfg :=
  (wellFormed_iff.mp hwf).2

/-- The fast table shares no channel with a slot (R9 check 6). -/
theorem slowEntries_ch_ne_of_mem_fastTable {f : FieldEntry} (hwf : s.cfg.wellFormed = true)
    (hf : f ∈ s.cfg.fastTable) (he : e ∈ slowEntries s) : e.ch ≠ f.ch := by
  obtain ⟨slot, hslot, hmem⟩ := mem_slowEntries he
  exact ((nineChecks_of_wellFormed hwf).check6 f hf slot hslot e hmem).symm

/-- Two slots that share a channel are one (R9 check 5). -/
theorem slot_index_unique {cfg : Config} (hwf : cfg.wellFormed = true) {j k : Nat} {slot' : List FieldEntry}
    {e' : FieldEntry} (hj : cfg.slowTable[j]? = some slot) (hk : cfg.slowTable[k]? = some slot') (he : e ∈ slot)
    (he' : e' ∈ slot') (hch : e.ch = e'.ch) : j = k := by
  obtain ⟨hjlt, rfl⟩ := List.getElem?_eq_some_iff.mp hj
  obtain ⟨hklt, rfl⟩ := List.getElem?_eq_some_iff.mp hk
  have hdisjoint := List.pairwise_iff_getElem.mp (nineChecks_of_wellFormed hwf).check5
  rcases Nat.lt_trichotomy j k with hlt | heq | hgt
  · exact absurd hch (hdisjoint j k hjlt hklt hlt e he e' he')
  · exact heq
  · exact absurd hch.symm (hdisjoint k j hklt hjlt hgt e' he' e he)

/-! ## What a commit does to one channel (R165, R166, R168, R170) -/

/-- Among the entries that name a channel there is a last one. -/
theorem exists_last_entry {es : List FieldEntry} (he : e ∈ es) :
    ∃ before d after, es = before ++ d :: after ∧ d.ch = e.ch ∧ ∀ d' ∈ after, d'.ch ≠ e.ch := by
  induction es using List.reverseRecOn with
  | nil => cases he
  | append_singleton rest d ih =>
    by_cases hd : d.ch = e.ch
    · exact ⟨rest, d, [], rfl, hd, by simp⟩
    · have hne : e ≠ d := fun h => hd (h ▸ rfl)
      obtain ⟨before, d', after, rfl, hch, hlast⟩ := ih (by simpa [hne] using he)
      refine ⟨before, d', after ++ [d], by simp, hch, fun x hx => ?_⟩
      rcases List.mem_append.mp hx with hx | hx
      · exact hlast x hx
      · rwa [List.mem_singleton.mp hx]

theorem ChansInv.hasReg_of_hasField (hs : ChansInv s) (hwf : s.cfg.wellFormed = true) {ch : Nat} {signed : Bool}
    {xf : Transform} (h : HasField s.cfg ch signed xf) : Machine.hasReg s.chans ch := by
  obtain ⟨k, hk, rfl, _⟩ := h.channel hwf
  exact hs.hasReg hk

theorem commitFrame_fast (hs : ChansInv s) (hwf : s.cfg.wellFormed = true)
    (htable : s.cfg.fastTable = before ++ e :: after) (hlast : ∀ d ∈ after, d.ch ≠ e.ch) (ha : Available s e.off e.width) :
    (commitFrame s).valOf e.ch = fieldValue s 0 e ∧ (commitFrame s).validOf e.ch = true := by
  have hmem : e ∈ s.cfg.fastTable := by simp [htable]
  have hcfg := (fastDecode_only s).cfg
  obtain ⟨hval, hvalid⟩ := decodeTable_last 0 before e after s
    (hs.hasReg_of_hasField hwf (.inl ⟨e, hmem, rfl, rfl, rfl⟩)) ((applies_iff 0 e).mpr (by rwa [Nat.zero_add]))
    fun d hd hch => absurd hch (hlast d hd)
  obtain ⟨hval', hvalid'⟩ := decodeTable_other _ _ (fastDecode s) e.ch fun d hd hch =>
    absurd hch (slowEntries_ch_ne_of_mem_fastTable (hcfg ▸ hwf) (hcfg ▸ hmem) hd)
  rw [← htable] at hval hvalid
  rw [commitFrame_valOf, commitFrame_validOf]
  exact ⟨hval'.trans hval, hvalid'.trans hvalid⟩

theorem commitFrame_slow (hs : ChansInv s) (hwf : s.cfg.wellFormed = true)
    (hentries : slowEntries s = before ++ e :: after) (hlast : ∀ d ∈ after, d.ch ≠ e.ch)
    (ha : Available s (s.cfg.selOff + 1 + e.off) e.width) :
    (commitFrame s).valOf e.ch = fieldValue s (s.cfg.selOff + 1) e ∧ (commitFrame s).validOf e.ch = true := by
  have honly := fastDecode_only s
  obtain ⟨slot, hslot, hmem⟩ := mem_slowEntries (s := s) (e := e) (by simp [hentries])
  have hreg := hs.hasReg_of_hasField hwf (.inr (.inl ⟨slot, hslot, e, hmem, rfl, rfl, rfl⟩))
  have hdecode := decodeTable_last (s.cfg.selOff + 1) before e after (fastDecode s) ((honly.hasReg _).mpr hreg)
    (by rw [applies_of_only honly]; exact (applies_iff _ e).mpr ha) fun d hd hch => absurd hch (hlast d hd)
  rw [commitFrame_valOf, commitFrame_validOf, slowDecode, slowEntries_of_only honly, hentries, honly.cfg,
    ← fieldValue_of_only honly]
  exact hdecode

theorem commitFrame_unnamed (hfast : ∀ e ∈ s.cfg.fastTable, e.ch = c → ¬ Available s e.off e.width)
    (hslow : ∀ e ∈ slowEntries s, e.ch = c → ¬ Available s (s.cfg.selOff + 1 + e.off) e.width) :
    (commitFrame s).valOf c = s.valOf c ∧ (commitFrame s).validOf c = s.validOf c := by
  have honly := fastDecode_only s
  obtain ⟨hval, hvalid⟩ := decodeTable_other 0 s.cfg.fastTable s c fun e he hch =>
    (applies_eq_false_iff 0 e).mpr (by rw [Nat.zero_add]; exact hfast e he hch)
  obtain ⟨hval', hvalid'⟩ := decodeTable_other (s.cfg.selOff + 1) (slowEntries s) (fastDecode s) c fun e he hch => by
    rw [applies_of_only honly]
    exact (applies_eq_false_iff _ e).mpr (hslow e he hch)
  rw [commitFrame_valOf, commitFrame_validOf, slowDecode, slowEntries_of_only honly, honly.cfg]
  exact ⟨hval'.trans hval, hvalid'.trans hvalid⟩

/-! ## The completing FEED_BYTE as a transaction (R129, R133) -/

theorem exec_of_commits (h : Commits b s) : exec (.feedByte b) s = .next (commitFrame (s.atCommit b)) := by
  rw [exec_feedByte h.port, feedByte_of_commits h]

theorem Inv.chansInv (hs : Inv s) : ChansInv s := by
  obtain ⟨_, hchans, _⟩ := inv_iff.mp hs
  exact hchans

theorem Inv.chansInv_atCommit (hs : Inv s) : ChansInv (s.atCommit b) := hs.chansInv.of_chans_eq (by simp) (by simp)

/-- Settles O28. -/
theorem fastFieldsAreDecoded : Obligations.FastFieldsAreDecoded := by
  intro s b before after e h hs hwf htable hlast ha
  obtain ⟨hval, hvalid⟩ := commitFrame_fast (s := s.atCommit b) hs.chansInv_atCommit (by simpa using hwf)
    (by simpa using htable) hlast (by simpa using ha)
  exact ⟨_, exec_of_commits h, hvalid, by simpa [fieldValue] using hval⟩

/-- Settles O29. -/
theorem selectedSlotIsDecoded : Obligations.SelectedSlotIsDecoded := by
  intro s b slot before after e h hs hwf hsel hlt hslot hsplit hlast ha
  have hentries : slowEntries (s.atCommit b) = before ++ e :: after :=
    (slowEntries_eq_slot (by simpa using hsel) (by simpa using hlt) (by simpa using hslot)).trans hsplit
  obtain ⟨hval, hvalid⟩ := commitFrame_slow hs.chansInv_atCommit (by simpa using hwf) hentries hlast (by simpa using ha)
  exact ⟨_, exec_of_commits h, hvalid, by simpa [fieldValue] using hval⟩

/-- Settles O30: no entry of a slot is applied, so the slow decoder changes nothing after the fast one. -/
theorem unknownSelectorStillCommits : Obligations.UnknownSelectorStillCommits := by
  intro s b h hge
  have hentries : slowEntries (s.atCommit b) = [] := slowEntries_eq_nil_of_selector (by simpa using hge)
  have hslow : slowDecode (fastDecode (s.atCommit b)) = fastDecode (s.atCommit b) := by
    rw [slowDecode, slowEntries_of_only (fastDecode_only _), hentries, decodeTable]
  refine ⟨_, exec_of_commits h, by simp, rfl, rfl, ⟨fun c => by simp [hslow], fun c => by simp [hslow]⟩, fun c hc => ?_⟩
  simpa using commitFrame_unnamed (s := s.atCommit b) (c := c)
    (fun e he hch => absurd hch (hc e (by simpa using he))) (by simp [hentries])

/-- Settles O31: of the byte port's transactions only a commit changes a channel, and the entries a commit applies are
those of the fast table and of the selected slot, which share no channel with another slot (R9 checks 5 and 6). -/
theorem slotChangesOnlyUnderItsSelector : Obligations.SlotChangesOnlyUnderItsSelector := by
  intro i s t k slot e hport hwf hslot he hexec hi hchange
  have of_chans : t.chans ≠ s.chans := fun hchans =>
    hchange.elim (absurd (valOf_of_chans_eq hchans e.ch)) (absurd (validOf_of_chans_eq hchans e.ch))
  cases exec_cases hexec with
  | init _ => exact absurd rfl hi
  | feedCan id data dlc hcan _ => simp [hport, Transport.hasCan] at hcan
  | hasNewData ht => exact absurd (by rw [ht]; rfl) of_chans
  | getSnapshot ht => exact absurd (by rw [ht]; rfl) of_chans
  | feedByte b huart ht =>
    subst ht
    cases feedByte_storeCase b s with
    | keeps _ store _ => exact absurd store.chans of_chans
    | crcError _ _ h => exact absurd (by simp [h, crcFail_eq]) of_chans
    | commits complete crc h =>
      refine ⟨b, rfl, ⟨huart, complete, crc⟩, ?_⟩
      by_contra hsel
      have hkept := commitFrame_unnamed (s := s.atCommit b) (c := e.ch)
        (fun f hf hch => absurd hch ((nineChecks_of_wellFormed hwf).check6 f (by simpa using hf) slot
          (List.mem_of_getElem? hslot) e he))
        fun d hd hch => by
          obtain ⟨slot', hslot', hd'⟩ := slot_of_mem_slowEntries hd
          rw [State.atCommit_cfg] at hslot'
          exact absurd (slot_index_unique hwf hslot' hslot hd' he hch) hsel
      rw [State.atCommit_valOf, State.atCommit_validOf, ← h] at hkept
      exact hchange.elim (absurd hkept.1) (absurd hkept.2)

/-- Settles O32. -/
theorem unavailableFieldsAreNotWritten : Obligations.UnavailableFieldsAreNotWritten := by
  intro s b c h hfast hslow
  have hentries : ∀ e ∈ slowEntries (s.atCommit b), e.ch = c →
      ¬ Available (s.atCommit b) ((s.atCommit b).cfg.selOff + 1 + e.off) e.width := by
    intro e he hch
    rcases hslow with hsel | hslots
    · rw [slowEntries_eq_nil_of_unavailable (by simpa using hsel)] at he
      cases he
    · obtain ⟨slot, hslot, hmem⟩ := mem_slowEntries he
      simpa using hslots slot (by simpa using hslot) e hmem hch
  have hkept := commitFrame_unnamed (s := s.atCommit b) (c := c) (by simpa using hfast) hentries
  exact ⟨_, exec_of_commits h, by simpa using hkept⟩

/-! ## Slots over a run (R173) -/

/-- Without INIT no transaction takes validity away (R31). -/
theorem execAll_validOf (is : List Instr) (hinit : .init ∉ is) (hrun : execAll is s = .next t)
    (hvalid : s.validOf c = true) : t.validOf c = true := by
  induction is generalizing s with
  | nil => rwa [← Host.Outcome.next.inj hrun]
  | cons i rest ih =>
    obtain ⟨hi, hrest⟩ := List.ne_and_not_mem_of_not_mem_cons hinit
    obtain ⟨u, hexec, hrun'⟩ := execAll_cons_next hrun
    obtain ⟨_, _, hkeeps⟩ := flagsAreTouchedOnlyAsTheTableSays i s u hexec
    obtain ⟨_, hmono⟩ := hkeeps hi.symm
    exact ih hrest hrun' (hmono c hvalid)

/-- A commit makes every channel of a slot valid whose entries are all applied. -/
theorem commitFrame_slow_valid (hs : ChansInv s) (hwf : s.cfg.wellFormed = true) (he : e ∈ slowEntries s)
    (hall : ∀ d ∈ slowEntries s, Available s (s.cfg.selOff + 1 + d.off) d.width) :
    (commitFrame s).validOf e.ch = true := by
  obtain ⟨before, d, after, hsplit, hch, hlast⟩ := exists_last_entry he
  rw [← hch] at hlast ⊢
  exact (commitFrame_slow hs hwf hsplit hlast (hall d (by simp [hsplit]))).2

/-- Settles O33, by induction on where the run commits the slot: the commit makes the channel valid, and the rest of
the run keeps it so. -/
theorem committedSlotsStayValid : Obligations.CommittedSlotsStayValid := by
  intro is s t k slot e hs hwf hrun hinit hcommitted hslot he
  induction hcommitted with
  | here b rest s commits selAvailable selector available =>
    obtain ⟨u, hexec, hrun'⟩ := execAll_cons_next hrun
    obtain rfl := Host.Outcome.next.inj ((exec_of_commits commits).symm.trans hexec)
    have hlt : k < 10 := (wellFormed_iff.mp hwf).1.slots ▸ (List.getElem?_eq_some_iff.mp hslot).1
    have hentries : slowEntries (s.atCommit b) = slot :=
      slowEntries_eq_slot (by simpa using selAvailable) (by simpa [selector] using hlt) (by simpa [selector] using hslot)
    refine execAll_validOf rest (List.not_mem_of_not_mem_cons hinit) hrun' ?_
    exact commitFrame_slow_valid hs.chansInv_atCommit (by simpa using hwf) (hentries ▸ he)
      (by simpa [hentries] using available slot hslot)
  | later i rest s u runs found ih =>
    rw [execAll_cons_of_next runs] at hrun
    exact ih (hs.exec hwf runs) (exec_cfg runs ▸ hwf) hrun (List.not_mem_of_not_mem_cons hinit)
      (exec_cfg runs ▸ hslot)

/-! ## What a fast value depends on (R167) -/

/-- A field reads the bytes from its offset up to its width, and no other (R106). -/
theorem raw_congr {src src' : Nat → Byte} {off width : Nat} (hwidth : width = 1 ∨ width = 2) (signed : Bool)
    (h : ∀ k, k < width → src' (off + k) = src (off + k)) : raw src' off width signed = raw src off width signed := by
  have h0 : src' off = src off := h 0 (by omega)
  rcases hwidth with rfl | rfl
  · simp [raw, rawWord, h0]
  · simp [raw, rawWord, h0, h 1 (by omega)]

/-- Settles O34: the last entry that names the channel decodes the same bytes in both commits. -/
theorem fastValuesDependOnlyOnTheFastBytes : Obligations.FastValuesDependOnlyOnTheFastBytes := by
  intro s s' b b' h h' hs hs' hcfg hwf hbytes
  refine ⟨_, _, exec_of_commits h, exec_of_commits h', fun e he => ?_⟩
  obtain ⟨before, d, after, hsplit, hch, hlast⟩ := exists_last_entry he
  have hd : d ∈ s.cfg.fastTable := by simp [hsplit]
  obtain ⟨ha, ha', hsame⟩ := hbytes d hd
  obtain ⟨hwidth, _, _⟩ := (nineChecks_of_wellFormed hwf).check2 d hd
  rw [← hch] at hlast ⊢
  obtain ⟨hval, hvalid⟩ := commitFrame_fast (s := s.atCommit b) hs.chansInv_atCommit (by simpa using hwf)
    (by simpa using hsplit) hlast (by simpa using ha)
  obtain ⟨hval', hvalid'⟩ := commitFrame_fast (s := s'.atCommit b') hs'.chansInv_atCommit (by simpa [hcfg] using hwf)
    (by simpa [hcfg] using hsplit) hlast (by simpa using ha')
  refine ⟨?_, hvalid, hvalid'⟩
  rw [hval, hval', fieldValue, fieldValue, Nat.zero_add, raw_congr hwidth d.signed hsame]

/-! ## The channels the source names (R162, R163, R207) -/

/-- Settles O37. -/
theorem sourceChannelExamples : Obligations.SourceChannelExamples := by
  refine ⟨fun off => ⟨?_, ?_, ?_⟩, fun off => ⟨?_, ?_⟩, fun off sg => ⟨?_, ?_⟩⟩
  all_goals norm_num [rpmEntry, rpmK, tpsEntry, oilTempField, oilPressureField, evalTransform]

end Sys2Proof.Machine
end

section
/-! # The rendering of a float channel (R169)

A magnitude is rounded on the grid of one exponent: scaled by `2 ^ 149 / 2 ^ E` the value lies among the integers its
significand is chosen from (`Rounds`, from `magnitude_spec`). Every binary32 value is a point of that grid or lies below
its normal range (`onGrid_value32`), so the nearest integer is the nearest value (`Rounds.nearest`). The rendered word
holds that significand and exponent, a carry into the exponent included (`magnitudeValue_of_rounds`), up to the bound
where they spell infinity (`Rounds.lt_infinity_iff`). `Renders` puts these together for the word with its sign, and O38
is read off it. -/

namespace Sys2Proof.Machine

variable {x y z q : ℚ} {E m M : ℕ}

/-! ## The words of the format -/

theorem expField32_eq (w : BitVec 32) : expField32 w = w.toNat / 2 ^ 23 % 2 ^ 8 := by
  simp [expField32, BitVec.extractLsb'_toNat, Nat.shiftRight_eq_div_pow]

theorem fracField32_eq (w : BitVec 32) : fracField32 w = w.toNat % 2 ^ 23 := by
  simp [fracField32, BitVec.extractLsb'_toNat]

theorem signBit_eq_one_iff (w : BitVec 32) : w.extractLsb' 31 1 = 1 ↔ 2 ^ 31 ≤ w.toNat := by
  have hlt := w.isLt
  rw [← BitVec.toNat_inj, BitVec.extractLsb'_toNat, Nat.shiftRight_eq_div_pow]
  change w.toNat / 2 ^ 31 % 2 ^ 1 = 1 ↔ _
  omega

/-- The significand that magnitude bits (exponent and fraction) spell, the hidden bit of a normal number included. -/
def significand (M : ℕ) : ℕ := if M / 2 ^ 23 = 0 then M else 2 ^ 23 + M % 2 ^ 23

/-- The value of magnitude bits: the exponent fields 0 and 1 both scale by the least power. -/
def magnitudeValue (M : ℕ) : ℚ := significand M * 2 ^ (M / 2 ^ 23 - 1) / 2 ^ 149

theorem significand_lt (M : ℕ) : significand M < 2 ^ 24 := by unfold significand; split <;> omega

theorem value32_eq (w : BitVec 32) : value32 w =
    if 2 ^ 31 ≤ w.toNat then -magnitudeValue (w.toNat % 2 ^ 31) else magnitudeValue (w.toNat % 2 ^ 31) := by
  have hexp : expField32 w = w.toNat % 2 ^ 31 / 2 ^ 23 := by rw [expField32_eq]; omega
  have hfrac : fracField32 w = w.toNat % 2 ^ 31 % 2 ^ 23 := by rw [fracField32_eq]; omega
  have hmag : magnitudeValue (w.toNat % 2 ^ 31) = if expField32 w = 0 then (fracField32 w : ℚ) / 2 ^ 149
      else (2 ^ 23 + fracField32 w : ℚ) * 2 ^ expField32 w / 2 ^ 150 := by
    rw [magnitudeValue, significand, hexp, hfrac]
    split
    · rw [show w.toNat % 2 ^ 31 / 2 ^ 23 - 1 = 0 by omega, Nat.mod_eq_of_lt (a := w.toNat % 2 ^ 31) (by omega)]
      simp
    · obtain ⟨e, he⟩ : ∃ e, w.toNat % 2 ^ 31 / 2 ^ 23 = e + 1 := ⟨w.toNat % 2 ^ 31 / 2 ^ 23 - 1, by omega⟩
      rw [he, Nat.add_sub_cancel]
      push_cast
      ring
  simp only [value32, signBit_eq_one_iff, hmag]

theorem value32_zero : value32 0 = 0 := by
  rw [value32_eq]
  simp [magnitudeValue, significand]

/-! ## Rounding on the grid of one exponent -/

/-- A value as a multiple of the least step at exponent field `E`. -/
def scaled (E : ℕ) (v : ℚ) : ℚ := v * 2 ^ 149 / 2 ^ E

/-- `m` is the significand of `x` at exponent field `E`: what `magnitude_spec` says of the magnitude bits. -/
structure Rounds (x : ℚ) (E m : ℕ) : Prop where
  near : Near (scaled E x) m
  high : scaled E x < 2 ^ 24
  low : E ≠ 0 → 2 ^ 23 ≤ scaled E x

/-- `v` is a point of the grid at exponent field `E`, or lies below the normal numbers of that exponent. -/
def OnGrid (E : ℕ) (v : ℚ) : Prop := (∃ k : ℤ, scaled E v = k) ∨ (E ≠ 0 ∧ |scaled E v| < 2 ^ 23)

theorem scaled_neg (E : ℕ) (v : ℚ) : scaled E (-v) = -scaled E v := by unfold scaled; ring

theorem scaled_injective (E : ℕ) : Function.Injective (scaled E) := by
  intro v w h
  have hstep : (2 : ℚ) ^ E ≠ 0 := by positivity
  simpa [scaled, hstep] using h

theorem abs_scaled_sub (E : ℕ) (v w : ℚ) : |scaled E v - scaled E w| = |v - w| * (2 ^ 149 / 2 ^ E) := by
  have hpos : (0 : ℚ) < 2 ^ 149 / 2 ^ E := by positivity
  rw [show scaled E v - scaled E w = (v - w) * (2 ^ 149 / 2 ^ E) by unfold scaled; ring, abs_mul, abs_of_pos hpos]

theorem OnGrid.neg {v : ℚ} (h : OnGrid E v) : OnGrid E (-v) := by
  unfold OnGrid at *
  rw [scaled_neg, abs_neg]
  rcases h with ⟨k, hk⟩ | hbelow
  · exact .inl ⟨-k, by rw [hk]; push_cast; rfl⟩
  · exact .inr hbelow

theorem onGrid_magnitudeValue (E M : ℕ) : OnGrid E (magnitudeValue M) := by
  have hscaled : scaled E (magnitudeValue M) = significand M * 2 ^ (M / 2 ^ 23 - 1) / 2 ^ E := by
    rw [scaled, magnitudeValue, div_mul_cancel₀ _ (by positivity)]
  generalize M / 2 ^ 23 - 1 = e at hscaled
  rcases Nat.lt_or_ge e E with hlt | hge
  · refine .inr ⟨by omega, ?_⟩
    have hsig : (significand M : ℚ) < 2 ^ 24 := by exact_mod_cast significand_lt M
    have hpow : (2 : ℚ) ^ (e + 1) ≤ 2 ^ E := pow_le_pow_right₀ (by norm_num) hlt
    rw [hscaled, abs_of_nonneg (by positivity), div_lt_iff₀ (by positivity)]
    calc (significand M : ℚ) * 2 ^ e < 2 ^ 24 * 2 ^ e := by gcongr
      _ = 2 ^ 23 * 2 ^ (e + 1) := by ring
      _ ≤ 2 ^ 23 * 2 ^ E := by gcongr
  · obtain ⟨k, rfl⟩ := Nat.exists_eq_add_of_le hge
    refine .inl ⟨significand M * 2 ^ k, ?_⟩
    rw [hscaled, pow_add, mul_div_assoc, mul_div_cancel_left₀ _ (by positivity)]
    push_cast
    rfl

theorem onGrid_value32 (E : ℕ) (w : BitVec 32) : OnGrid E (value32 w) := by
  rw [value32_eq]
  split
  · exact (onGrid_magnitudeValue E _).neg
  · exact onGrid_magnitudeValue E _

/-- No integer is nearer than the rounded one, and one as near is another integer in a tie alone. -/
theorem Near.le_int (h : Near y m) (k : ℤ) : |y - m| ≤ |y - k| ∧ (|y - m| = |y - k| → (k : ℚ) ≠ m → m % 2 = 0) := by
  obtain ⟨hhalf, htie⟩ := h
  by_cases hk : k = m
  · subst hk
    exact ⟨le_rfl, fun _ hne => absurd (by push_cast; rfl) hne⟩
  · have hone : (1 : ℚ) ≤ |(k : ℚ) - m| := by exact_mod_cast Int.one_le_abs (sub_ne_zero.mpr hk)
    have htri : |(k : ℚ) - m| ≤ |y - m| + |y - k| := by
      rw [abs_sub_comm y k, add_comm]
      exact abs_sub_le (k : ℚ) y m
    exact ⟨by linarith, fun heq _ => htie (by linarith)⟩

/-- No value of the format is nearer than the rounded significand, and one as near is another value in a tie alone. -/
theorem Rounds.nearest (h : Rounds x E m) (hz : OnGrid E z) :
    |scaled E x - m| ≤ |scaled E x - scaled E z| ∧
    (|scaled E x - m| = |scaled E x - scaled E z| → scaled E z ≠ m → m % 2 = 0) := by
  rcases hz with ⟨k, hk⟩ | ⟨hE, hbelow⟩
  · rw [hk]
    exact h.near.le_int k
  · have hlow := h.low hE
    obtain ⟨hleast, _⟩ := h.near.le_int (2 ^ 23)
    rw [Int.cast_pow, Int.cast_ofNat, abs_of_nonneg (sub_nonneg.mpr hlow)] at hleast
    have hfar : scaled E x - 2 ^ 23 < |scaled E x - scaled E z| :=
      lt_of_lt_of_le (by linarith [(abs_lt.mp hbelow).2]) (le_abs_self _)
    exact ⟨by linarith, fun heq => by linarith⟩

/-! ## The significand and the exponent as bits -/

theorem Rounds.le (h : Rounds x E m) : m ≤ 2 ^ 24 := by
  obtain ⟨hhalf, _⟩ := h.near
  have hlow : scaled E x - m ≥ -|scaled E x - m| := neg_abs_le _
  have : (m : ℚ) < 2 ^ 24 + 1 := by linarith [h.high]
  exact Nat.lt_succ_iff.mp (by exact_mod_cast this)

theorem Rounds.ge (h : Rounds x E m) (hE : E ≠ 0) : 2 ^ 23 ≤ m := by
  obtain ⟨hhalf, _⟩ := h.near
  have hhigh : scaled E x - m ≤ |scaled E x - m| := le_abs_self _
  have : (2 ^ 23 : ℚ) < m + 1 := by linarith [h.low hE]
  exact Nat.lt_succ_iff.mp (by exact_mod_cast this)

/-- The magnitude bits spell the rounded value; a significand of `2 ^ 24` carries into the exponent. -/
theorem magnitudeValue_of_rounds (h : Rounds x E m) : scaled E (magnitudeValue (E * 2 ^ 23 + m)) = m := by
  have hscaled : (significand (E * 2 ^ 23 + m) : ℚ) * 2 ^ ((E * 2 ^ 23 + m) / 2 ^ 23 - 1) = m * 2 ^ E := by
    have hle := h.le
    have hge := h.ge
    rcases Nat.lt_or_ge m (2 ^ 23) with hsub | hnormal
    · have hE : E = 0 := by by_contra hE; exact absurd (hge hE) (by omega)
      rw [significand, if_pos (by omega)]
      simp [hE, show m / 8388608 = 0 by omega]
    · rw [significand, if_neg (by omega)]
      rcases Nat.lt_or_ge m (2 ^ 24) with hlt | hcarry
      · rw [show (E * 2 ^ 23 + m) / 2 ^ 23 - 1 = E by omega, show 2 ^ 23 + (E * 2 ^ 23 + m) % 2 ^ 23 = m by omega]
      · rw [show (E * 2 ^ 23 + m) / 2 ^ 23 - 1 = E + 1 by omega,
          show 2 ^ 23 + (E * 2 ^ 23 + m) % 2 ^ 23 = 2 ^ 23 by omega, show m = 2 ^ 24 by omega]
        push_cast
        ring
  rw [scaled, magnitudeValue, hscaled, div_mul_cancel₀ _ (by positivity), mul_div_cancel_right₀ _ (by positivity)]

/-- The significand is carried to `2 ^ 24` from halfway above `2 ^ 24 - 1` on: the tie is odd. -/
theorem Rounds.carries_iff (h : Rounds x E m) : 2 ^ 24 ≤ m ↔ 2 ^ 24 - 1 / 2 ≤ scaled E x := by
  obtain ⟨hhalf, htie⟩ := h.near
  have hlow := neg_abs_le (scaled E x - m)
  have hhigh := le_abs_self (scaled E x - m)
  constructor
  · intro hm
    have : (2 ^ 24 : ℚ) ≤ m := by exact_mod_cast hm
    linarith
  · intro hx
    have hge : 2 ^ 24 ≤ m + 1 := by
      have : (2 ^ 24 : ℚ) ≤ (m + 1 : ℕ) := by push_cast; linarith
      exact_mod_cast this
    by_contra hlt
    have hm : (m : ℚ) = 2 ^ 24 - 1 := by rw [show m = 2 ^ 24 - 1 by omega]; norm_num
    have heven := htie (by linarith)
    omega

/-- The bits stay below those of infinity exactly for a value below `2 ^ 128 - 2 ^ 103` (log entry 8): exponent field
253 is the one where the carry decides. -/
theorem Rounds.lt_infinity_iff (h : Rounds x E m) : E * 2 ^ 23 + m < 255 * 2 ^ 23 ↔ x < 2 ^ 128 - 2 ^ 103 := by
  have hle := h.le
  have hhigh := h.high
  rcases Nat.lt_trichotomy E 253 with hlt | rfl | hgt
  · have hpow : (2 : ℚ) ^ E ≤ 2 ^ 252 := pow_le_pow_right₀ (by norm_num) (by omega)
    rw [scaled, div_lt_iff₀ (by positivity)] at hhigh
    exact iff_of_true (by omega) (by linarith)
  · have hcarry := h.carries_iff
    rw [show scaled 253 x = x / 2 ^ 104 by unfold scaled; ring, le_div_iff₀ (by positivity)] at hcarry
    calc 253 * 2 ^ 23 + m < 255 * 2 ^ 23 ↔ ¬ 2 ^ 24 ≤ m := by omega
      _ ↔ x < (2 ^ 24 - 1 / 2) * 2 ^ 104 := by rw [hcarry, not_le]
      _ ↔ x < 2 ^ 128 - 2 ^ 103 := by norm_num
  · have hge := h.ge (by omega)
    have hlow := h.low (by omega)
    have hpow : (2 : ℚ) ^ 254 ≤ 2 ^ E := pow_le_pow_right₀ (by norm_num) hgt
    rw [scaled, le_div_iff₀ (by positivity)] at hlow
    exact iff_of_false (by omega) (by linarith)

/-! ## The rendered word -/

/-- The sign of a value, as the sign bit spells it. -/
def signOf (q : ℚ) : ℚ := if q < 0 then -1 else 1

theorem signOf_mul_self (q : ℚ) : signOf q * signOf q = 1 := by unfold signOf; split <;> norm_num

theorem signOf_mul (q : ℚ) : signOf q * q = |q| := by
  unfold signOf
  split
  · rw [neg_one_mul, abs_of_neg ‹_›]
  · rw [one_mul, abs_of_nonneg (not_lt.mp ‹_›)]

theorem OnGrid.signOf_mul {v : ℚ} (h : OnGrid E v) (q : ℚ) : OnGrid E (signOf q * v) := by
  unfold signOf
  split
  · rw [neg_one_mul]
    exact h.neg
  · rwa [one_mul]

/-- How far a value is from `q`, counted in steps of the grid on the side of `q`. -/
theorem abs_scaled_sub_signOf_mul (E : ℕ) (q v : ℚ) :
    |scaled E |q| - scaled E (signOf q * v)| = |v - q| * (2 ^ 149 / 2 ^ E) := by
  have hsign : |signOf q| = 1 := by unfold signOf; split <;> norm_num
  rw [abs_scaled_sub, ← signOf_mul q, ← mul_sub, abs_mul, hsign, one_mul, abs_sub_comm]

/-- The word with these magnitude bits and the sign bit of `q`. -/
def signedWord (q : ℚ) (M : ℕ) : BitVec 32 := BitVec.ofNat 32 ((if q < 0 then 2 ^ 31 else 0) + M)

theorem signedWord_toNat (q : ℚ) (hM : M < 2 ^ 31) :
    (signedWord q M).toNat = (if q < 0 then 2 ^ 31 else 0) + M := by
  rw [signedWord, BitVec.toNat_ofNat, Nat.mod_eq_of_lt (by split <;> omega)]

theorem expField32_signedWord (q : ℚ) (hM : M < 2 ^ 31) : expField32 (signedWord q M) = M / 2 ^ 23 := by
  rw [expField32_eq, signedWord_toNat q hM]
  split <;> omega

theorem fracField32_signedWord (q : ℚ) (hM : M < 2 ^ 31) : fracField32 (signedWord q M) = M % 2 ^ 23 := by
  rw [fracField32_eq, signedWord_toNat q hM]
  split <;> omega

theorem value32_signedWord (q : ℚ) (hM : M < 2 ^ 31) : value32 (signedWord q M) = signOf q * magnitudeValue M := by
  rw [value32_eq, signedWord_toNat q hM, signOf]
  split
  · rw [if_pos (by omega), Nat.add_mod_left, Nat.mod_eq_of_lt hM, neg_one_mul]
  · rw [zero_add, if_neg (by omega), Nat.mod_eq_of_lt hM, one_mul]

theorem renderNearestEven_eq (hq : q ≠ 0) : renderNearestEven q =
    if magnitude32 q.num.natAbs q.den = 0 then 0 else signedWord q (magnitude32 q.num.natAbs q.den) := by
  simp only [renderNearestEven, if_neg hq, Rat.num_neg, signedWord]
  split
  · rfl
  · split <;> simp

theorem natAbs_num_div_den (q : ℚ) : (q.num.natAbs : ℚ) / q.den = |q| := by
  rw [Nat.cast_natAbs, Int.cast_abs, ← abs_of_pos (show (0 : ℚ) < q.den by exact_mod_cast q.den_pos), ← abs_div,
    Rat.num_div_den]

/-- The rendering of `q` spells the significand `m` at exponent field `E` with the sign of `q`, up to infinity. -/
structure Renders (q : ℚ) (E m : ℕ) : Prop where
  rounds : Rounds |q| E m
  zero : m = 0 → renderNearestEven q = 0
  finite : m ≠ 0 → E * 2 ^ 23 + m < 255 * 2 ^ 23 → renderNearestEven q = signedWord q (E * 2 ^ 23 + m)
  infinite : 255 * 2 ^ 23 ≤ E * 2 ^ 23 + m → renderNearestEven q = signedWord q (255 * 2 ^ 23)

theorem exists_renders (q : ℚ) : ∃ E m, Renders q E m := by
  by_cases hq : q = 0
  · subst hq
    refine ⟨0, 0, ⟨?_, ?_, ?_⟩, fun _ => rfl, fun h => absurd rfl h, fun h => absurd h (by norm_num)⟩
    · constructor <;> norm_num [scaled]
    · norm_num [scaled]
    · exact fun h => absurd rfl h
  · obtain ⟨E, m, hmag, hnear, hhigh, hlow⟩ :=
      magnitude_spec q.num.natAbs q.den (Int.natAbs_pos.mpr (Rat.num_ne_zero.mpr hq)) q.den_pos
    rw [natAbs_num_div_den] at hnear hhigh hlow
    have hrounds : Rounds |q| E m := ⟨hnear, hhigh, hlow⟩
    have hrender := renderNearestEven_eq hq
    rw [hmag, show (0x7F800000 : ℕ) = 255 * 2 ^ 23 by norm_num] at hrender
    refine ⟨E, m, hrounds, fun hm => ?_, fun hm hlt => ?_, fun hge => ?_⟩
    · have hE : E = 0 := by
        by_contra hE
        have := hrounds.ge hE
        omega
      simpa [hm, hE] using hrender
    · rwa [Nat.min_eq_left (by omega), if_neg (by omega)] at hrender
    · rwa [Nat.min_eq_right hge, if_neg (by omega)] at hrender

theorem Renders.value (h : Renders q E m) (hlt : E * 2 ^ 23 + m < 255 * 2 ^ 23) :
    scaled E (signOf q * value32 (renderNearestEven q)) = m := by
  by_cases hm : m = 0
  · rw [h.zero hm, hm, value32_zero]
    simp [scaled]
  · rw [h.finite hm hlt, value32_signedWord q (by omega), ← mul_assoc, signOf_mul_self, one_mul,
      magnitudeValue_of_rounds h.rounds]

theorem Renders.frac (h : Renders q E m) (hlt : E * 2 ^ 23 + m < 255 * 2 ^ 23) :
    fracField32 (renderNearestEven q) % 2 = m % 2 := by
  by_cases hm : m = 0
  · rw [h.zero hm, hm]
    rfl
  · rw [h.finite hm hlt, fracField32_signedWord q (by omega)]
    omega

theorem Renders.isFinite32_iff (h : Renders q E m) :
    isFinite32 (renderNearestEven q) ↔ E * 2 ^ 23 + m < 255 * 2 ^ 23 := by
  constructor
  · intro hfin
    by_contra hge
    rw [h.infinite (not_lt.mp hge), isFinite32, expField32_signedWord q (by norm_num)] at hfin
    omega
  · intro hlt
    by_cases hm : m = 0
    · rw [h.zero hm, isFinite32]
      decide
    · rw [h.finite hm hlt, isFinite32, expField32_signedWord q (by omega)]
      omega

theorem Renders.infinite_of_le (h : Renders q E m) (hq : 2 ^ 128 - 2 ^ 103 ≤ |q|) :
    renderNearestEven q = signedWord q (255 * 2 ^ 23) :=
  h.infinite (not_lt.mp fun hlt => absurd (h.rounds.lt_infinity_iff.mp hlt) (not_lt.mpr hq))

/-- No word is nearer than a finite rendering, and one as near has another value in a tie alone. -/
theorem Renders.nearest (h : Renders q E m) (hlt : E * 2 ^ 23 + m < 255 * 2 ^ 23) (w : BitVec 32) :
    |value32 (renderNearestEven q) - q| ≤ |value32 w - q| ∧
    (|value32 (renderNearestEven q) - q| = |value32 w - q| → value32 w ≠ value32 (renderNearestEven q) →
      m % 2 = 0) := by
  have hstep : (0 : ℚ) < 2 ^ 149 / 2 ^ E := by positivity
  obtain ⟨hle, htie⟩ := h.rounds.nearest ((onGrid_value32 E w).signOf_mul q)
  rw [← h.value hlt, abs_scaled_sub_signOf_mul, abs_scaled_sub_signOf_mul] at hle htie
  refine ⟨le_of_mul_le_mul_right hle hstep, fun heq hne => htie (by rw [heq]) fun hsame => hne ?_⟩
  exact mul_left_cancel₀ (left_ne_zero_of_mul_eq_one (signOf_mul_self q)) (scaled_injective E hsame)

/-- Settles O38. -/
theorem renderingIsNearestTiesToEven : Obligations.RenderingIsNearestTiesToEven := by
  intro q
  obtain ⟨E, m, h⟩ := exists_renders q
  refine ⟨fun hfin => ?_, h.isFinite32_iff.trans h.rounds.lt_infinity_iff, fun hbig => ?_, fun hbig => ?_⟩
  · have hlt := h.isFinite32_iff.mp hfin
    refine ⟨fun w _ => (h.nearest hlt w).1, fun w _ heq hne => ?_, fun hzero => h.zero ?_⟩
    · exact (h.frac hlt).trans ((h.nearest hlt w).2 heq hne)
    · have hvalue := h.value hlt
      rw [hzero] at hvalue
      simpa [scaled, eq_comm] using hvalue
  · rw [h.infinite_of_le (hbig.trans (le_abs_self q)), signedWord, if_neg (not_lt.mpr (le_trans (by norm_num) hbig))]
    rfl
  · rw [h.infinite_of_le (by linarith [neg_le_abs q]), signedWord, if_pos (lt_of_le_of_lt hbig (by norm_num))]
    rfl

end Sys2Proof.Machine
end

section
/-! # The CAN family (42_can_decoder.md): what FEED_CAN answers, writes and leaves alone

The table lookup has two outcomes: no entry has the identifier (`feedCan_of_unknown`), or in a well-formed table the one
that has it is found (`feedCan_of_entry`). O39 to O41 read off what each does. The length code acts through
`canFieldWithin` alone (`exec_feedCan_congr_dlc`, O42), and the parser part not at all (`feedCan_withParserOf`, O43). -/

namespace Sys2Proof.Machine

variable {s t : State} {E : CanEntry} {f : CanField} {table : List CanEntry} {id : Word} {data : CanData}
  {dlc dlc' : Byte}

/-! ## The lookup and the length check (R201, R202) -/

theorem lookupCan_eq_none (h : ∀ E ∈ table, E.id ≠ id) : lookupCan table id = none := by
  simpa [lookupCan] using h

/-- Where no identifier repeats, the lookup finds every entry of the table (R9 check 7). -/
theorem lookupCan_eq_some (hids : (table.map (·.id)).Nodup) (hE : E ∈ table) : lookupCan table E.id = some E := by
  obtain ⟨F, hF⟩ : ∃ F, lookupCan table E.id = some F :=
    Option.isSome_iff_exists.mp (List.find?_isSome.mpr ⟨E, hE, beq_self_eq_true _⟩)
  have hid : F.id = E.id := by simpa using List.find?_some hF
  rw [hF, List.inj_on_of_nodup_map hids (List.mem_of_find?_eq_some hF) hE hid]

theorem canFieldWithin_iff {check : Bool} :
    canFieldWithin check dlc f = true ↔ check = false ∨ f.off + 2 ≤ dlc.toNat := by
  simp [canFieldWithin]

theorem canFieldWithin_eq_false_iff {check : Bool} :
    canFieldWithin check dlc f = false ↔ check = true ∧ dlc.toNat < f.off + 2 := by
  simp [canFieldWithin]

/-! ## FEED_CAN by the outcome of the lookup (R200, R203, R204) -/

theorem exec_feedCan (hport : s.cfg.transport.hasCan = true) :
    exec (.feedCan id data dlc) s = .next (feedCan id data dlc s) := if_pos hport

theorem feedCan_of_unknown (h : ∀ E ∈ s.cfg.canTable, E.id ≠ id) :
    feedCan id data dlc s = s.answer (.bit false) (some .canUnknown) := by
  rw [feedCan, lookupCan_eq_none h]

theorem feedCan_of_entry (hwf : s.cfg.wellFormed = true) (hE : E ∈ s.cfg.canTable) :
    feedCan E.id data dlc s = (decodeCanFields data dlc E.fields s).markDecoded.answer (.bit true) (some .canOk) := by
  obtain ⟨hids, _⟩ := (nineChecks_of_wellFormed hwf).check7
  rw [feedCan, lookupCan_eq_some hids hE]

/-! ## What FEED_CAN leaves alone (R203, R205) -/

theorem KeepsParser.sameParser (h : KeepsParser s t) : SameParser s t :=
  ⟨h.parserState, h.frameLen, h.rxCount, h.crcAcc, h.crcRxLo, bufRead_of_buf_eq h.buf⟩

theorem feedCan_keepsParser (id : Word) (data : CanData) (dlc : Byte) (s : State) :
    KeepsParser s (feedCan id data dlc s) := by
  rcases feedCan_cases id data dlc s with ⟨_, h⟩ | ⟨E, _, h⟩ <;> rw [h]
  · exact ⟨rfl, rfl, rfl, rfl, rfl, rfl, rfl⟩
  · have honly := decodeCanFields_only data dlc E.fields s
    exact ⟨honly.cfg, honly.parserState, honly.frameLen, honly.rxCount, honly.crcAcc, honly.crcRxLo, honly.buf⟩

theorem feedCan_sameHost (id : Word) (data : CanData) (dlc : Byte) (s : State) :
    SameHost s (feedCan id data dlc s) :=
  ⟨feedCan_cfg id data dlc s, feedCan_requests id data dlc s⟩

/-- Settles O39. -/
theorem unknownCanIdChangesNothing : Obligations.UnknownCanIdChangesNothing := by
  intro s id data dlc hport hunknown
  have hparser := (feedCan_keepsParser id data dlc s).sameParser
  have hhost := feedCan_sameHost id data dlc s
  refine ⟨_, exec_feedCan hport, ?_⟩
  rw [feedCan_of_unknown hunknown] at hparser hhost ⊢
  exact ⟨rfl, hparser, KeepsStore.sameStore ⟨rfl, rfl, rfl, rfl, rfl⟩, hhost⟩

/-- Settles O40: of an entry's fields the decoder applies those within the length code, and writes nothing else. -/
theorem knownCanIdIsRecognised : Obligations.KnownCanIdIsRecognised := by
  intro s E data dlc hport hwf hE
  have honly := decodeCanFields_only data dlc E.fields s
  have hparser := (feedCan_keepsParser E.id data dlc s).sameParser
  have hhost := feedCan_sameHost E.id data dlc s
  refine ⟨_, exec_feedCan hport, ?_⟩
  rw [feedCan_of_entry hwf hE] at hparser hhost ⊢
  refine ⟨rfl, rfl, rfl, honly.packetCount, honly.errorCount, hparser, hhost, fun c hc => ?_⟩
  exact decodeCanFields_other data dlc E.fields s c fun f hf hch => canFieldWithin_eq_false_iff.mpr (hc f hf hch)

/-- Settles O41: the last field of the entry that names a channel decides it, and the block has that channel. -/
theorem canFieldsAreDecoded : Obligations.CanFieldsAreDecoded := by
  intro s E before after f data dlc hport hs hwf hE hfields hlast hwithin
  have hreg : hasReg s.chans f.ch := hs.chansInv.hasReg_of_hasField hwf
    (.inr (.inr ⟨E, hE, f, by simp [hfields], rfl, rfl, rfl⟩))
  obtain ⟨hval, hvalid⟩ := decodeCanFields_last data dlc before f after s hreg (canFieldWithin_iff.mpr hwithin)
    fun f' hf' hch => absurd hch (hlast f' hf')
  refine ⟨_, exec_feedCan hport, ?_⟩
  rw [feedCan_of_entry hwf hE, hfields]
  exact ⟨hvalid, hval⟩

/-! ## The length code (R202) -/

theorem decodeCanFields_congr_dlc {fs : List CanField}
    (h : ∀ f ∈ fs, canFieldWithin s.cfg.canDlcCheck dlc f = canFieldWithin s.cfg.canDlcCheck dlc' f) :
    decodeCanFields data dlc fs s = decodeCanFields data dlc' fs s := by
  induction fs generalizing s with
  | nil => rfl
  | cons f rest ih =>
    obtain ⟨hf, hrest⟩ := List.forall_mem_cons.mp h
    have hhead : decodeCanField data dlc f s = decodeCanField data dlc' f s := by
      rw [decodeCanField, decodeCanField, hf]
    rw [decodeCanFields, decodeCanFields, hhead]
    exact ih (by rwa [(decodeCanField_only data dlc' f s).cfg])

/-- Two length codes that every field of the table is alike under give the same FEED_CAN. -/
theorem exec_feedCan_congr_dlc (h : ∀ E ∈ s.cfg.canTable, ∀ f ∈ E.fields,
      canFieldWithin s.cfg.canDlcCheck dlc f = canFieldWithin s.cfg.canDlcCheck dlc' f) :
    exec (.feedCan id data dlc) s = exec (.feedCan id data dlc') s := by
  have hfeed : feedCan id data dlc s = feedCan id data dlc' s := by
    rw [feedCan, feedCan]
    cases hE : lookupCan s.cfg.canTable id with
    | none => rfl
    | some E => simp only [decodeCanFields_congr_dlc (h E (List.mem_of_find?_eq_some hE))]
  simp only [exec, execFeedCan, hfeed]

/-- Settles O42: with the check off every field is within every code, and no field of a well-formed table ends above 8
(R9 check 7). -/
theorem dataLengthCodeAboveEightActsAsEight : Obligations.DataLengthCodeAboveEightActsAsEight := by
  intro s id data dlc dlc'
  refine ⟨fun hoff => ?_, fun hwf hge => ?_⟩
  · exact exec_feedCan_congr_dlc fun _ _ f _ =>
      (canFieldWithin_iff.mpr (.inl hoff)).trans (canFieldWithin_iff.mpr (.inl hoff)).symm
  · refine exec_feedCan_congr_dlc fun E hE f hf => ?_
    obtain ⟨_, hentries⟩ := (nineChecks_of_wellFormed hwf).check7
    obtain ⟨_, _, hoffs⟩ := hentries E hE
    have hend : f.off + 2 ≤ 8 := by have := hoffs f hf; omega
    exact (canFieldWithin_iff.mpr (.inr (hend.trans hge))).trans (canFieldWithin_iff.mpr (.inr hend)).symm

/-! ## The parser part (R205) -/

/-- The state with the parser part of `p` in place of its own (R20). -/
def State.withParserOf (s p : State) : State :=
  { s with
    parserState := p.parserState
    frameLen := p.frameLen
    rxCount := p.rxCount
    crcAcc := p.crcAcc
    crcRxLo := p.crcRxLo
    buf := p.buf }

theorem decodeCanField_withParserOf (s p : State) (data : CanData) (dlc : Byte) (f : CanField) :
    decodeCanField data dlc f (s.withParserOf p) = (decodeCanField data dlc f s).withParserOf p := by
  rw [decodeCanField, decodeCanField, apply_ite (State.withParserOf · p)]; rfl

theorem decodeCanFields_withParserOf (s p : State) (data : CanData) (dlc : Byte) (fs : List CanField) :
    decodeCanFields data dlc fs (s.withParserOf p) = (decodeCanFields data dlc fs s).withParserOf p := by
  induction fs generalizing s with
  | nil => rfl
  | cons f rest ih => rw [decodeCanFields, decodeCanField_withParserOf, ih, decodeCanFields]

/-- FEED_CAN on a state with another parser part gives the same state but for that part. -/
theorem feedCan_withParserOf (s p : State) (id : Word) (data : CanData) (dlc : Byte) :
    feedCan id data dlc (s.withParserOf p) = (feedCan id data dlc s).withParserOf p := by
  have htable : (s.withParserOf p).cfg.canTable = s.cfg.canTable := rfl
  rw [feedCan, feedCan, htable]
  cases lookupCan s.cfg.canTable id with
  | none => rfl
  | some E => simp only [decodeCanFields_withParserOf]; rfl

/-- Settles O43. -/
theorem feedCanIsIndependentOfTheFramer : Obligations.FeedCanIsIndependentOfTheFramer := by
  intro s s' id data dlc hport heq
  have hs' : s' = s.withParserOf s' := heq
  have hport' : s'.cfg.transport.hasCan = true := by rw [hs']; exact hport
  have hfeed : feedCan id data dlc s' = (feedCan id data dlc s).withParserOf s' := by
    rw [← feedCan_withParserOf, ← hs']
  refine ⟨_, _, exec_feedCan hport, exec_feedCan hport', (feedCan_keepsParser ..).sameParser,
    (feedCan_keepsParser ..).sameParser, ?_⟩
  rw [hfeed]
  exact ⟨KeepsStore.sameStore ⟨rfl, rfl, rfl, rfl, rfl⟩, rfl⟩

end Sys2Proof.Machine
end

section
/-! # The store interface's family (43_store_interface.md): INIT, HAS_NEW_DATA and GET_SNAPSHOT

What INIT leaves in a channel is said once (`exists_valOf_eq_zero_of_fresh`, with `validOf_fresh`), and so is what a
read of a channel yields (the `readChannel_of_…` lemmas, R30): O14, O16 and O18 read them off. The two statements on
the new-data flag (O17, O19) rest on what a run makes of it (`execAll_newData`). -/

namespace Sys2Proof.Machine

variable {i : Instr} {is rest : List Instr} {s t : State} {c : Channel}

/-! ## The channels at reset (R39) -/

theorem Val.toRat_zero (kind : ChanKind) : (Val.zero kind).toRat = 0 := by
  cases kind with
  | float => rfl
  | int => exact Int.cast_zero
  | flags => exact Int.cast_zero

theorem Val.toInt_zero (kind : ChanKind) : (Val.zero kind).toInt = 0 := by
  cases kind <;> rfl

/-- Whether or not ids repeat, every read of a fresh register file finds some kind's reset value: an id no channel has
reads as an integer 0. -/
theorem exists_valOf_eq_zero_of_fresh {cs : List Channel} (h : s.chans = freshChans cs) (ch : Nat) :
    ∃ kind, s.valOf ch = Val.zero kind := by
  simp only [State.valOf, h]
  cases hr : findReg (freshChans cs) ch with
  | none => exact ⟨.int, rfl⟩
  | some r =>
    obtain ⟨k, _, _, rfl⟩ := findReg_fresh hr
    exact ⟨k.kind, rfl⟩

/-- Settles O14: INIT writes the reset table out, and the channels are fresh. -/
theorem initResetsEveryElement : Obligations.InitResetsEveryElement := by
  intro s
  have hchans : ((initAll s).answer .none none).chans = freshChans s.cfg.channels := rfl
  refine ⟨_, rfl, rfl, rfl, rfl, rfl, rfl, fun _ => rfl, fun ch => ⟨?_, validOf_fresh hchans ch⟩, rfl, rfl, rfl, rfl,
    rfl, ⟨rfl, rfl⟩, rfl⟩
  obtain ⟨kind, hval⟩ := exists_valOf_eq_zero_of_fresh hchans ch
  rw [hval, Val.toRat_zero]

/-! ## What a read of a channel yields (R30) -/

theorem readChannel_of_invalid (hkind : c.kind = .float) (hvalid : s.validOf c.id = false) :
    s.readChannel c = .nan := by
  simp [State.readChannel, readAs, hkind, hvalid]

theorem readChannel_of_valid (hkind : c.kind = .float) (hvalid : s.validOf c.id = true) :
    s.readChannel c = .float (floatRender s.cfg.floatRender (s.valOf c.id).toRat) := by
  simp [State.readChannel, readAs, hkind, hvalid]

/-- `INT` and `FLAGS` channels read as the exact integer, valid or not. -/
theorem readChannel_of_not_float (hkind : c.kind ≠ .float) : s.readChannel c = .int (s.valOf c.id).toInt := by
  cases hk : c.kind with
  | float => exact absurd hk hkind
  | int => rw [State.readChannel, hk, readAs]
  | flags => rw [State.readChannel, hk, readAs]

/-- Before any decode a float channel reads NaN and every other one 0 (R221). -/
theorem readChannel_fresh {cs : List Channel} (h : s.chans = freshChans cs) (c : Channel) :
    s.readChannel c = if c.kind = .float then .nan else .int 0 := by
  split
  · next hkind => exact readChannel_of_invalid hkind (validOf_fresh h c.id)
  · next hkind =>
    obtain ⟨kind, hval⟩ := exists_valOf_eq_zero_of_fresh h c.id
    rw [readChannel_of_not_float hkind, hval, Val.toInt_zero]

/-- Settles O16: the snapshot reads the fresh channels that INIT left. -/
theorem snapshotAfterInitHasNoData : Obligations.SnapshotAfterInitHasNoData := by
  intro s
  have hchans : ((initAll s).answer .none none).chans = freshChans s.cfg.channels := rfl
  refine ⟨_, ((initAll s).answer .none none).snapshot, rfl, rfl, rfl, rfl, rfl, ?_, ?_⟩
  · exact List.map_congr_left fun c _ => by rw [validOf_fresh hchans]
  · exact List.map_congr_left fun c _ => by rw [readChannel_fresh hchans]

/-! ## GET_SNAPSHOT (R221, R222) -/

theorem snapshot_ch_getElem? {n : Nat} (h : s.cfg.channels[n]? = some c) :
    s.snapshot.ch[n]? = some (c.id, s.readChannel c) := by
  rw [State.snapshot, List.getElem?_map, h, Option.map_some]

theorem snapshot_valid_getElem? {n : Nat} (h : s.cfg.channels[n]? = some c) :
    s.snapshot.valid[n]? = some (c.id, s.validOf c.id) := by
  rw [State.snapshot, List.getElem?_map, h, Option.map_some]

/-- Settles O18: the record is read channel by channel, and only the answer is written, which no read depends on. -/
theorem getSnapshotAnswersTheStore : Obligations.GetSnapshotAnswersTheStore := by
  intro s
  refine ⟨_, s.snapshot, rfl, rfl, fun n c hc => ⟨snapshot_valid_getElem? hc, fun hkind hvalid => ?_,
    fun hkind hvalid => ?_, fun hkind => ?_⟩, List.length_map .., List.length_map .., rfl, rfl, rfl,
    ⟨rfl, rfl, rfl, rfl, rfl, fun _ => rfl⟩, KeepsStore.sameStore ⟨rfl, rfl, rfl, rfl, rfl⟩, ⟨rfl, rfl⟩, rfl⟩
  · rw [snapshot_ch_getElem? hc, readChannel_of_invalid hkind hvalid]
  · rw [snapshot_ch_getElem? hc, readChannel_of_valid hkind hvalid]
  · rw [snapshot_ch_getElem? hc, readChannel_of_not_float hkind]

/-! ## The new-data flag over a run (R223, R224) -/

theorem exec_hasNewData (s : State) : exec .hasNewData s = .next (s.clearNewData.answer (.bit s.newData) none) := rfl

/-- A run that completes completes all before its last transaction, and then that one. -/
theorem execAll_concat_next (h : execAll (is ++ [i]) s = .next t) :
    ∃ u, execAll is s = .next u ∧ exec i u = .next t := by
  induction is generalizing s with
  | nil =>
    obtain ⟨u, hexec, hnil⟩ := execAll_cons_next h
    rw [execAll, Host.Outcome.next.injEq] at hnil
    exact ⟨s, rfl, hnil ▸ hexec⟩
  | cons j rest ih =>
    obtain ⟨s₁, hfirst, hrest⟩ := execAll_cons_next h
    rw [execAll_cons_of_next hfirst]
    exact ih hrest

theorem successes_cons_of_next (h : exec i s = .next t) :
    successes (i :: rest) s = (if isSuccess t.event then 1 else 0) + successes rest t := by
  rw [successes, h]

/-- Without INIT and HAS_NEW_DATA the flag stays up where it was up, and any successful decode raises it. -/
theorem execAll_newData (hno : ∀ i ∈ is, i ≠ .init ∧ i ≠ .hasNewData) (h : execAll is s = .next t) :
    t.newData = (s.newData || decide (0 < successes is s)) := by
  induction is generalizing s with
  | nil =>
    rw [execAll, Host.Outcome.next.injEq] at h
    simp [h, successes]
  | cons i rest ih =>
    obtain ⟨⟨hinit, hread⟩, hno'⟩ := List.forall_mem_cons.mp hno
    obtain ⟨s₁, hfirst, hrest⟩ := execAll_cons_next h
    rw [ih hno' hrest, exec_newData hfirst hinit hread, successes_cons_of_next hfirst]
    cases isSuccess s₁.event <;> simp

/-- Settles O17: the answer is the flag, which INIT, the read itself and a run with a success leave as stated. -/
theorem hasNewDataReadsAndClears : Obligations.HasNewDataReadsAndClears := by
  refine ⟨fun s => ?_, fun s => ⟨_, rfl, rfl⟩, fun is s t hno hrun hsuccess => ?_⟩
  · exact ⟨_, exec_hasNewData s, rfl, rfl, ⟨rfl, rfl, rfl, rfl, rfl, fun _ => rfl⟩, ⟨rfl, rfl⟩,
      sameChannels_of_chans_eq rfl, rfl, rfl, rfl⟩
  · have hflag : t.newData = true := by simp [execAll_newData hno hrun, hsuccess]
    exact ⟨_, _, exec_hasNewData t, congrArg Response.bit hflag, exec_hasNewData _, rfl⟩

/-- Settles O19: HAS_NEW_DATA answers the flag the run left. -/
theorem newDataIsDeliveredOnceCoalesced : Obligations.NewDataIsDeliveredOnceCoalesced := by
  intro is s t hno hrun
  obtain ⟨u, his, hread⟩ := execAll_concat_next hrun
  rw [exec_hasNewData, Host.Outcome.next.injEq] at hread
  rw [← execAll_newData hno his, ← hread]
  exact ⟨rfl, rfl⟩

end Sys2Proof.Machine
end

section
/-! # The exceptions family (60_exceptions.md): nothing stops the block, and the tags of its arms

A transaction that is part of the block completes (`exec_of_wellFormed`), and so does the step that takes it (O9). What
tag a FEED_BYTE or FEED_CAN answers is said once an arm, by the `…_event` lemmas; O24 is their tag codes. -/

namespace Sys2Proof.Machine

variable {i : Instr} {s t : State} {b h : Byte} {p : ParserState} {id : Word} {data : CanData} {dlc : Byte}

/-! ## Nothing stops the block (R240) -/

theorem exec_sameHost (h : exec i s = .next t) : SameHost s t := ⟨exec_cfg h, exec_requests h⟩

/-- Settles O9: the transaction completes where its port is there, and the step is the transaction. -/
theorem everyAdmittedTransactionCompletes : Obligations.EveryAdmittedTransactionCompletes := by
  refine ⟨fun i s hport => ?_, fun i s q rest hwf hreq hq hport => ?_⟩
  · obtain ⟨t, ht⟩ := exec_of_wellFormed hport
    exact ⟨t, ht, exec_sameHost ht⟩
  · obtain ⟨t, ht⟩ := exec_of_wellFormed (s := { s with requests := rest }) hport
    obtain ⟨hcfg, hrest⟩ := exec_sameHost ht
    exact ⟨t, (step_of_request hwf hreq hq).trans ht, hcfg, hrest⟩

/-! ## The tag of each arm (R242) -/

theorem feedHeader_event (h : Byte) (n : ParserState) (b : Byte) (s : State) :
    (feedHeader h n b s).event = some (if b = h then .hdrAdvance else .desync) := by
  unfold feedHeader
  split <;> rfl

theorem feedVersion_event (b : Byte) (s : State) :
    (feedVersion b s).event = some (if b = s.cfg.protoVersion then .hdrAdvance else .desync) := by
  unfold feedVersion
  split <;> rfl

theorem feedByte_seek0_event (hp : s.parserState = .seek0) :
    (feedByte b s).event = some (if b = hdr0 then .hdrAdvance else .noise) := by
  rw [feedByte_seek0 hp]
  rfl

/-- SEEK_1 to SEEK_VERSION each expect one byte, and tell whether it came (R122, R123). -/
theorem feedByte_expected_event
    (harm : (p, h) ∈ [(.seek1, 0x00), (.seek2, 0xAA), (.seek3, 0x00), (.seekVersion, s.cfg.protoVersion)])
    (hp : s.parserState = p) : (feedByte b s).event = some (if b = h then .hdrAdvance else .desync) := by
  simp only [List.mem_cons, List.not_mem_nil, or_false, Prod.mk.injEq] at harm
  rcases harm with ⟨rfl, rfl⟩ | ⟨rfl, rfl⟩ | ⟨rfl, rfl⟩ | ⟨rfl, rfl⟩
  · rw [feedByte_seek1 hp]; exact feedHeader_event ..
  · rw [feedByte_seek2 hp]; exact feedHeader_event ..
  · rw [feedByte_seek3 hp]; exact feedHeader_event ..
  · rw [feedByte_seekVersion hp]; exact feedVersion_event ..

theorem feedByte_readLength_event (hp : s.parserState = .readLength) :
    (feedByte b s).event = some (if 4 ≤ b.toNat ∧ b.toNat ≤ 48 then .lenAccept else .lenReject) := by
  rw [feedByte_readLength hp, feedLength]
  simp only [lengthAccepted_iff]
  split <;> rfl

theorem feedByte_pending_event (hp : s.parserState = .readBody) (hne : s.rxCount ≠ s.frameLen) :
    (feedByte b s).event = some .body := by
  rw [feedByte_pending hp hne]
  rfl

theorem feedByte_commits_event (hcommits : Commits b s) : (feedByte b s).event = some .frameOk := by
  rw [feedByte_of_commits hcommits]
  rfl

theorem feedByte_crcMismatch_event (hc : s.completes) (hcrc : ¬ s.crcMatches b) :
    (feedByte b s).event = some .frameCrcErr := by
  rw [feedByte_of_crcMismatch hc hcrc]
  rfl

/-- An identifier that an entry has is recognised, whether or not another entry has it too (R201, R203). -/
theorem feedCan_known_event (hknown : ∃ E ∈ s.cfg.canTable, E.id = id) :
    (feedCan id data dlc s).event = some .canOk := by
  obtain ⟨E, hE, hid⟩ := hknown
  rcases feedCan_cases id data dlc s with ⟨hnone, _⟩ | ⟨_, _, hnext⟩
  · have hunknown : ∀ F ∈ s.cfg.canTable, F.id ≠ id := by simpa [lookupCan] using hnone
    exact absurd hid (hunknown E hE)
  · rw [hnext]
    rfl

theorem feedCan_unknown_event (hunknown : ∀ E ∈ s.cfg.canTable, E.id ≠ id) :
    (feedCan id data dlc s).event = some .canUnknown := by
  rw [feedCan_of_unknown hunknown]
  rfl

/-- The code of a tag that a test selects is the code that the test selects. -/
theorem map_code_of_event_eq_ite {c : Prop} [Decidable c] {yes no : Event}
    (hevent : t.event = some (if c then yes else no)) :
    t.event.map Event.code = some (if c then yes.code else no.code) := by
  rw [hevent, Option.map_some, apply_ite Event.code]

/-- Settles O24: the code of each arm's tag. -/
theorem eventTagsNameTheArm : Obligations.EventTagsNameTheArm := by
  refine ⟨fun s b hport => ⟨_, exec_feedByte hport b, fun hp => ?seek0, fun p h harm hp => ?expected,
    fun hp => ?length, fun hp hne => ?body, fun hc hcrc => ?commit, fun hc hcrc => ?crcErr⟩,
    fun s id data dlc hport => ⟨_, exec_feedCan hport, fun hknown => ?known, fun hunknown => ?unknown⟩⟩
  case seek0 => exact map_code_of_event_eq_ite (feedByte_seek0_event hp)
  case expected => exact map_code_of_event_eq_ite (feedByte_expected_event harm hp)
  case length => exact map_code_of_event_eq_ite (feedByte_readLength_event hp)
  case body => exact congrArg (Option.map Event.code) (feedByte_pending_event hp hne)
  case commit => exact congrArg (Option.map Event.code) (feedByte_commits_event ⟨hport, hc, hcrc⟩)
  case crcErr => exact congrArg (Option.map Event.code) (feedByte_crcMismatch_event hc hcrc)
  case known => exact congrArg (Option.map Event.code) (feedCan_known_event hknown)
  case unknown => exact congrArg (Option.map Event.code) (feedCan_unknown_event hunknown)

end Sys2Proof.Machine
end

section
/-! # Power-on reset (70_reset_and_hazards.md)

INIT leaves the power-on state of its configuration, with the waiting requests kept (`exec_init_eq_powerOn`); so the
power-on state with no request waiting is what INIT leaves, and O15 reads the reset values off O14. -/

namespace Sys2Proof.Machine

/-- INIT forgets everything but the configuration and the requests that still wait (R226, R270). -/
theorem exec_init_eq_powerOn (s : State) :
    exec .init s = .next { State.powerOn s.cfg with requests := s.requests } := rfl

/-- Settles O15: reset is what INIT leaves in it, so it has the reset values INIT gives. -/
theorem powerOnEqualsInit : Obligations.PowerOnEqualsInit := by
  have hinit : ∀ s : State, s.cfg = State.reset.cfg → s.requests = [] → exec .init s = .next State.reset := by
    intro s hcfg hrequests
    rw [exec_init_eq_powerOn, hcfg, hrequests]
    rfl
  have hreset : exec .init State.reset = .next State.reset := hinit State.reset rfl rfl
  obtain ⟨t, ht, hparser, hlen, hcount, hcrc, hlo, hbuf, hchans, hconnected, hpackets, herrors, hnew, -⟩ :=
    initResetsEveryElement State.reset
  obtain rfl : State.reset = t := Host.Outcome.next.inj (hreset.symm.trans ht)
  exact ⟨hparser, hlen, hcount, hcrc, hlo, hbuf, hchans, hconnected, hpackets, herrors, hnew, hreset, hinit⟩

end Sys2Proof.Machine
end
